-- ==== Sys2Proof/Word.lean ====
section
/-!
DEFINITION. The value types of the block, at the widths of 00_scope.md R7 and 10_state.md R25, R26.
All values are unsigned and bit 0 is the least significant bit (R10).
-/

namespace Sys2Proof

/-- One octet: a character of TIN or TOUT, a command word, a byte of a UUID value. -/
abbrev Byte := BitVec 8

/-- A 64-bit word: a key half, a nonce, a MASKGEN working value. -/
abbrev Word := BitVec 64

/-- A 128-bit UUID value (R21). -/
abbrev Uuid := BitVec 128

/-- A 48-bit mask (R7). -/
abbrev Mask := BitVec 48

/-- One hex digit's value. -/
abbrev Nibble := BitVec 4

/-- The 36 octets of TIN or TOUT, octet i being character i (R25, R26). -/
abbrev Text := Vector Byte 36

/-- The type of the parameter MASK_PRF: key words k0 and k1 and a nonce to 64 bits (R8). -/
abbrev Prf := Word → Word → Word → Word

end Sys2Proof
end

