-- ==== Sys2Proof/Syntax.lean ====
section
/-!
DEFINITION. The commands of UV47-CMD version 1: one constructor for each row of the opcode map, 30_encoding.md R62.
No command has an operand field (R61, R63), so no constructor has an argument. An illegal word is no command: its defined
effect (R65) is given where the word is run, in Machine/Events.lean.
-/

namespace Sys2Proof

/-- A command of the block (R62). -/
inductive Instr where
  /-- 0x01 PARSE, R81 -/
  | parse
  /-- 0x02 SERIALIZE, R82 -/
  | serialize
  /-- 0x03 VALIDATE, R83 -/
  | validate
  /-- 0x04 MASK, R103 -/
  | mask
  /-- 0x05 XORTS, R121 -/
  | xorts
  /-- 0x06 SETVER, R122 -/
  | setver
  /-- 0x07 ENCB, R124 -/
  | encb
  /-- 0x08 DECB, R125 -/
  | decb
  /-- 0x09 ENCF, R126 -/
  | encf
  /-- 0x0A DECF, R127 -/
  | decf
  /-- 0x0B SETKEYS, R150 -/
  | setkeys
  /-- 0x0C HASKEYS, R151 -/
  | haskeys
  /-- 0x0D ENC, R152 -/
  | enc
  /-- 0x0E DEC, R153 -/
  | dec
  deriving DecidableEq, Repr

end Sys2Proof
end

