-- ==== Sys2Proof/WellFormed.lean ====
section
/-!
DEFINITION. Which command words and which commands are well-formed. A command word is legal exactly when it is one of
0x01..0x0E (R64, R65). A command has no operand fields (R61), so every command is well-formed; the host's literals, which
do have ranges, are checked by lineWf in Machine/HostProgram.lean.
-/

namespace Sys2Proof

/-- The command word selects a command: 0x01..0x0E (R64). Every other word is illegal (R65). -/
def legalWord (w : Byte) : Bool := 0x01#8 ≤ w && w ≤ 0x0E#8

/-- A command takes no register number, immediate, mode or function field (R61): there is nothing to check. -/
def Instr.wf : Instr → Bool
  | .parse => true
  | .serialize => true
  | .validate => true
  | .mask => true
  | .xorts => true
  | .setver => true
  | .encb => true
  | .decb => true
  | .encf => true
  | .decf => true
  | .setkeys => true
  | .haskeys => true
  | .enc => true
  | .dec => true

end Sys2Proof
end

