-- ==== Sys2Proof/Decode.lean ====
section
/-!
DEFINITION. Decoding and encoding of command words. Decoding is by exact match of all 8 bits (R64); it is total, and a
word that selects no command is rejected by name. The encoder is written from the column OPC of R62.
-/

namespace Sys2Proof

/-- Why a word is no command. -/
inductive Reject where
  /-- OPC is 0x00 or 0x0F..0xFF: the illegal words of R65. Running such a word is defined (ERR = 6), so this stops nothing. -/
  | illegalCommand (w : Byte)
  deriving DecidableEq, Repr

/-- The command a word selects, by the opcode map R62; every other word is illegal (R64, R65). -/
def decode (w : Byte) : Except Reject Instr :=
  match w.toNat with
  | 0x01 => .ok .parse
  | 0x02 => .ok .serialize
  | 0x03 => .ok .validate
  | 0x04 => .ok .mask
  | 0x05 => .ok .xorts
  | 0x06 => .ok .setver
  | 0x07 => .ok .encb
  | 0x08 => .ok .decb
  | 0x09 => .ok .encf
  | 0x0A => .ok .decf
  | 0x0B => .ok .setkeys
  | 0x0C => .ok .haskeys
  | 0x0D => .ok .enc
  | 0x0E => .ok .dec
  | _ => .error (.illegalCommand w)

/-- The command word of a command: its OPC byte (R62, R67). -/
def encode : Instr → Byte
  | .parse => 0x01#8
  | .serialize => 0x02#8
  | .validate => 0x03#8
  | .mask => 0x04#8
  | .xorts => 0x05#8
  | .setver => 0x06#8
  | .encb => 0x07#8
  | .decb => 0x08#8
  | .encf => 0x09#8
  | .decf => 0x0A#8
  | .setkeys => 0x0B#8
  | .haskeys => 0x0C#8
  | .enc => 0x0D#8
  | .dec => 0x0E#8

/-- The commands of a stream of command words, in order: every word is one command word long (R66, R67). -/
def decodeStream (ws : List Byte) : List (Except Reject Instr) := ws.map decode

/-- The command word that a table row of nbits bits with value w lays out: one byte, the bits above nbits zero (R61). -/
def tableWord (nbits w : Nat) : Byte := BitVec.ofNat 8 (w % 2 ^ nbits)

/-- What the decoder reads from a row of the opcode table. -/
def decodeTableWord (nbits w : Nat) : Option Instr :=
  match decode (tableWord nbits w) with
  | .ok i => some i
  | .error _ => none

end Sys2Proof
end

