-- ==== Sys2Proof/Config.lean ====
section
/-!
DEFINITION. What the spec leaves open and the model leaves free: constants without a body, of which nothing can be
proved but what holds of every value. MASK_PRF (R8, R35) is decided by the spec and stands in Machine/MaskGen.lean.
-/

namespace Sys2Proof.Config

/-- K0 after the n-th reset: the spec leaves it unspecified, 'a model takes them as arbitrary values' (R200).
DESIGN CHOICE: a free value, log entry 3. -/
opaque k0AtReset : Nat → Word

/-- K1 after the n-th reset (R200). DESIGN CHOICE: a free value, log entry 3. -/
opaque k1AtReset : Nat → Word

/-- How many hosts share the command port beyond the first; HOSTS is at least 1 (R8). A free value, log entry 9. -/
opaque extraHosts : Nat

/-- HOSTS (R8, R183): the number of host agents sharing the command port, at least 1. -/
def hosts : Nat := extraHosts + 1

/-- CMD_LATENCY (R8, R205): the time from issue to completion of a command. No rule depends on it and the model uses it
nowhere: one step per command, log entry 11. -/
opaque cmdLatency : Nat

end Sys2Proof.Config
end

