-- ==== Sys2Proof/Machine/State.lean ====
section
/-!
DEFINITION. The state of the block (10_state.md R20), the host's actions on it (R25, R26, R46, R60, R201), the reasons a
step can stop, and the state after reset (70_reset_and_hazards.md R200).
-/

namespace Sys2Proof.Machine

/-- The twelve ports: nine operand ports (R25) and three result ports (R26). -/
inductive Port where
  | tlen | tin | uin | kin0 | kin1 | kpres | nin | min | vin
  | tout | uout | mout
  deriving DecidableEq, Repr

/-- A whole value for an operand port, at that port's width (R25, R27): what a host writes, or reads back. -/
inductive OperandVal where
  | tlen (v : BitVec 32)
  | tin (v : Text)
  | uin (v : Uuid)
  | kin0 (v : Word)
  | kin1 (v : Word)
  | kpres (v : BitVec 2)
  | nin (v : Word)
  | min (v : Mask)
  | vin (v : Nibble)
  deriving DecidableEq, Repr

/-- A whole value of a result port (R26, R27): what a host reads. -/
inductive ResultVal where
  | tout (v : Text)
  | uout (v : Uuid)
  | mout (v : Mask)
  deriving DecidableEq, Repr

/-- The value of a port. -/
inductive PortVal where
  | operand (v : OperandVal)
  | result (v : ResultVal)
  deriving DecidableEq, Repr

/-- One event of the single order of R47: what a host does to the block. A write to a result port or to STATUS is no
event, since those are read-only to the host (R23, R26), and nothing reads K0 or K1 back (R22). -/
inductive HostEvent where
  /-- the host writes an operand port (R25) -/
  | write (v : OperandVal)
  /-- the host reads a port (R25, R26, R46) -/
  | read (p : Port)
  /-- the host reads STATUS (R23) -/
  | readStatus
  /-- the host presents a command word (R60) -/
  | command (w : Byte)
  /-- reset, or power-up (R185, R201). The spec says that reset is an event of the order and not who raises it: here a host
  issues it, like any other event, with its number. DESIGN CHOICE, log entry 12. -/
  | reset
  deriving DecidableEq, Repr

/-- An event and the host that issues it. The block sees no host identifier (R183): the number only says whose own issue
order the event belongs to (R47). -/
structure Issued where
  host : Nat
  event : HostEvent
  deriving DecidableEq, Repr

/-- What the hosts see of a run: STATUS after each command (R207), and the value of each of their reads. No host number
stands with it: with several hosts the list shows the commands and reads of all of them. DESIGN CHOICE, log entry 22. -/
inductive Observation where
  /-- STATUS after a command -/
  | status (v : BitVec 8)
  /-- the value of a host read of a port -/
  | port (v : PortVal)
  /-- the value of a host read of STATUS -/
  | statusRead (v : BitVec 8)
  deriving DecidableEq, Repr

/-- Why the machine stops. -/
inductive Fault where
  /-- UNWRITTEN_PORT naming the port: the stop the spec itself requires of a model (R30, R202 (2), D30, item 9 of
  93_implementation_defined.md). Raised by every command that reads an unwritten operand port on
  the path it takes, and by a host read of an unwritten port. Safe: the machine stops where a chip would go on with
  whatever the port holds. -/
  | unwrittenPort (p : Port)
  deriving DecidableEq, Repr

/-- Why an instruction has no meaning. -/
inductive Refusal where
  /-- The command is not modelled. Raised by no arm: every command has its meaning. Safe: it would only stop the machine. -/
  | notModelled (mnemonic : String)
  deriving DecidableEq, Repr

/-- The state of the block (R20) and, after it, three fields of the model's own: the events still to come, what the hosts
have seen, and the number of resets so far. A port is none while it is unwritten: that is the spec's own state of a port
after reset, 'it holds no value' (R30). -/
structure State where
  /-- KEYREG.K0 (R22) -/
  k0 : Word
  /-- KEYREG.K1 (R22) -/
  k1 : Word
  /-- KEYREG.KVALID (R22) -/
  kvalid : Bool
  /-- STATUS (R23): ERR in bits 2:0, BOOL in bit 3, bits 7:4 reserved -/
  status : BitVec 8
  /-- operand port TLEN (R25): length of the input text, saturated -/
  tlen : Option (BitVec 32)
  /-- operand port TIN (R25): the input text -/
  tin : Option Text
  /-- operand port UIN (R25): input UUID value -/
  uin : Option Uuid
  /-- operand port KIN0 (R25): explicit key word k0 -/
  kin0 : Option Word
  /-- operand port KIN1 (R25): explicit key word k1 -/
  kin1 : Option Word
  /-- operand port KPRES (R25): bit 0 says k0 is present, bit 1 that k1 is -/
  kpres : Option (BitVec 2)
  /-- operand port NIN (R25): nonce -/
  nin : Option Word
  /-- operand port MIN (R25): mask -/
  min : Option Mask
  /-- operand port VIN (R25): version -/
  vin : Option Nibble
  /-- result port TOUT (R26): output text -/
  tout : Option Text
  /-- result port UOUT (R26): output UUID value -/
  uout : Option Uuid
  /-- result port MOUT (R26): mask -/
  mout : Option Mask
  /-- the model's own: the events to come, in the one order of R47, the next one first (log entry 1) -/
  pending : List Issued
  /-- the model's own: what the hosts have seen, all of them, oldest first (R207, log entries 5 and 22) -/
  observed : List Observation
  /-- the model's own: how many resets have happened, the argument of the free values of K0 and K1 (log entry 3) -/
  resetCount : Nat
  deriving DecidableEq, Repr

/-- The machine right after reset (R200): no key, STATUS zero, every port unwritten, and no event yet to come. K0 and K1
are unspecified: free values (DESIGN CHOICE, log entry 3). -/
def State.reset : State where
  k0 := Config.k0AtReset 0
  k1 := Config.k1AtReset 0
  kvalid := false
  status := 0x00#8
  tlen := none
  tin := none
  uin := none
  kin0 := none
  kin1 := none
  kpres := none
  nin := none
  min := none
  vin := none
  tout := none
  uout := none
  mout := none
  pending := []
  observed := []
  resetCount := 0

end Sys2Proof.Machine
end

