-- ==== Sys2Proof/Machine/Flags.lean ====
section
/-!
DEFINITION. STATUS and the error codes (10_state.md R23, 60_exceptions.md R170): the block's only flags (R24).
-/

namespace Sys2Proof.Machine

/-- The error codes of R170. -/
inductive ErrCode where
  /-- 0 NONE: success of every command -/
  | noError
  /-- 1 INVALID_FORMAT: the text does not parse (R80) -/
  | invalidFormat
  /-- 2 INVALID_UUIDV7: version is not 7 or variant is not 10b, on encode (R123) -/
  | invalidUuidv7
  /-- 3 INVALID_UUID: variant is not 10b, on decode (R123) -/
  | invalidUuid
  /-- 4 MISSING_KEY_ARGUMENT: KPRES is not 0b11 (R150) -/
  | missingKeyArgument
  /-- 5 KEYS_NOT_SET: KVALID is 0 (R152, R153) -/
  | keysNotSet
  /-- 6 ILLEGAL_COMMAND: the word selects no command (R65) -/
  | illegalCommand
  deriving DecidableEq, Repr

/-- The number of an error code (R170). The value 7 is never used (R23). -/
def errNumber : ErrCode → BitVec 3
  | .noError => 0#3
  | .invalidFormat => 1#3
  | .invalidUuidv7 => 2#3
  | .invalidUuid => 3#3
  | .missingKeyArgument => 4#3
  | .keysNotSet => 5#3
  | .illegalCommand => 6#3

/-- The STATUS word with ERR in bits 2:0, BOOL in bit 3 and bits 7:4 zero (R23). -/
def statusWord (e : ErrCode) (b : Bool) : BitVec 8 := 0#4 ++ BitVec.ofBool b ++ errNumber e

/-- STATUS.ERR, bits 2:0 (R23). -/
def statusErr (v : BitVec 8) : BitVec 3 := v.extractLsb' 0 3

/-- STATUS.BOOL, bit 3 (R23). -/
def statusBool (v : BitVec 8) : Bool := v.getLsbD 3

/-- STATUS[7:4], reserved (R23). -/
def statusReserved (v : BitVec 8) : BitVec 4 := v.extractLsb' 4 4

end Sys2Proof.Machine
end

