-- ==== Sys2Proof/Machine/Ops.lean ====
section
/-!
DEFINITION. The named operations over the state: the writes of STATUS, KEYREG and the result ports, and the two ends of a
command, finish and raise Error (00_scope.md R12, 60_exceptions.md R173). An error is the block's only exception: its
entry writes STATUS and nothing else, and there is no return from it (R173, R177). The block has no memory (R40), so there
is no operation on one.
-/

namespace Sys2Proof.Machine

/-- What running something on the block answers. -/
abbrev Result := Host.Outcome State Fault Refusal

/-- Writes STATUS (R23). -/
def State.setStatus (s : State) (v : BitVec 8) : State := { s with status := v }

/-- Writes the result port UOUT (R26). -/
def State.writeUout (s : State) (v : Uuid) : State := { s with uout := some v }

/-- Writes the result port TOUT (R26). -/
def State.writeTout (s : State) (v : Text) : State := { s with tout := some v }

/-- Writes the result port MOUT (R26). -/
def State.writeMout (s : State) (v : Mask) : State := { s with mout := some v }

/-- Writes K0, K1 and KVALID in one step (R52, R150). -/
def State.storeKey (s : State) (k0 k1 : Word) : State := { s with k0 := k0, k1 := k1, kvalid := true }

/-- finish(b): the command ends successfully, ERR 0 and BOOL b (R12). -/
def finish (b : Bool) (s : State) : Result := .next (s.setStatus (statusWord .noError b))

/-- raise Error(e): the command ends with ERR e and BOOL 0; no result port and no KEYREG field is written (R12, R173). -/
def raiseError (e : ErrCode) (s : State) : Result := .next (s.setStatus (statusWord e false))

/-- An illegal command word: STATUS is {ERR 6, BOOL 0}, nothing else is read or written (R65). -/
def execIllegal (s : State) : Result := raiseError .illegalCommand s

end Sys2Proof.Machine
end

