-- ==== Sys2Proof/Machine/Text.lean ====
section
/-!
DEFINITION. Canonical text and its mapping to bits (40_codec.md R80): hexval, parse_text, lowerhex, serialize_text.
-/

namespace Sys2Proof.Machine

/-- HYPHENPOS (R80). -/
def hyphenPos : List (Fin 36) := [8, 13, 18, 23]

/-- HEXPOS (R80): the character position of hex digit j is entry j. -/
def hexPos : List (Fin 36) :=
  [0, 1, 2, 3, 4, 5, 6, 7] ++ [9, 10, 11, 12] ++ [14, 15, 16, 17] ++ [19, 20, 21, 22]
    ++ [24, 25, 26, 27, 28, 29, 30, 31, 32, 33, 34, 35]

/-- The octet of '-', 0x2D (R80). -/
def hyphen : Byte := 0x2D#8

/-- hexval (R80): the value of a hex digit of either case, none for every other octet. -/
def hexval (c : Byte) : Option Nibble :=
  if 0x30#8 ≤ c ∧ c ≤ 0x39#8 then some ((c - 0x30#8).setWidth 4)
  else if 0x41#8 ≤ c ∧ c ≤ 0x46#8 then some ((c - 0x37#8).setWidth 4)
  else if 0x61#8 ≤ c ∧ c ≤ 0x66#8 then some ((c - 0x57#8).setWidth 4)
  else none

/-- The 128-bit value of a list of hex digits, the first the most significant: with 32 digits, digit j is
U[127-4j : 124-4j] (R80). -/
def packDigits (ds : List Nibble) : Uuid := ds.foldl (fun u d => (u <<< 4) ||| d.setWidth 128) 0#128

/-- The hex digits of a text in order, none if some digit position holds no hex digit (R80). -/
def textDigits (t : Text) : Option (List Nibble) := hexPos.mapM fun p => hexval t[p]

/-- Every hyphen position of the text holds '-' (R80). -/
def hyphensOk (t : Text) : Bool := hyphenPos.all fun p => t[p] == hyphen

/-- The part of parse_text after the length check (R80). -/
def parseChars (t : Text) : Option Uuid :=
  if hyphensOk t then (textDigits t).map packDigits else none

/-- parse_text (R80); none is FAIL. The text is not looked at unless the length is 36. -/
def parseText (len : BitVec 32) (t : Text) : Option Uuid :=
  if len = 36#32 then parseChars t else none

/-- lowerhex (R80). -/
def lowerhex (d : Nibble) : Byte :=
  if d ≤ 9#4 then 0x30#8 + d.setWidth 8 else 0x57#8 + d.setWidth 8

/-- U[127-4j : 124-4j], the value of hex digit j (R80); j is 0..31. -/
def digitAt (u : Uuid) (j : Nat) : Nibble := u.extractLsb' (124 - 4 * j) 4

/-- How many hyphens stand before character position i, so that a digit position i holds digit i - hyphensBefore i (R80). -/
def hyphensBefore (i : Nat) : Nat := (hyphenPos.filter fun p => p.val < i).length

/-- serialize_text (R80). -/
def serializeText (u : Uuid) : Text :=
  Vector.ofFn fun i : Fin 36 => if i ∈ hyphenPos then hyphen else lowerhex (digitAt u (i.val - hyphensBefore i.val))

/-- lower of R84 on one octet: 'A'..'F' to 'a'..'f', every other octet unchanged. -/
def lowerByte (c : Byte) : Byte := if 0x41#8 ≤ c ∧ c ≤ 0x46#8 then c + 0x20#8 else c

/-- lower of R84 on a text. -/
def lowerText (t : Text) : Text := t.map lowerByte

end Sys2Proof.Machine
end

