-- ==== Sys2Proof/Machine/Operands.lean ====
section
/-!
DEFINITION. Every operand form of the commands (30_encoding.md R63): a whole operand port, the text in TLEN and TIN, the
explicit key in KIN0 and KIN1, the stored key in KEYREG. A port is read only where the rule uses it (00_scope.md R12), and
reading an unwritten operand port is the fault UNWRITTEN_PORT naming it (10_state.md R30).
-/

namespace Sys2Proof.Machine

/-- Reads an operand port and goes on with its value. An unwritten one faults because the spec says so: 'a model faults
with UNWRITTEN_PORT naming the port' (R30; also R202 (2), D30 and item 9 of 93_implementation_defined.md). -/
def withOperand {α : Type} (p : Port) (v : Option α) (k : α → Result) : Result :=
  match v with
  | some a => k a
  | none => .fault (.unwrittenPort p)

/-- Reads the text operand, parse_text(p[TLEN], p[TIN]): TIN is read only when TLEN is 36 (R25, R80). The continuation gets
none for FAIL. -/
def withText (s : State) (k : Option Uuid → Result) : Result :=
  withOperand .tlen s.tlen fun n =>
    if n = 36#32 then withOperand .tin s.tin fun t => k (parseText n t)
    else k none

/-- Reads the explicit key, KIN0 before KIN1 (R25). Which of two unwritten ports the fault names is not in the spec:
DESIGN CHOICE, log entry 7. -/
def withExplicitKey (s : State) (k : Word → Word → Result) : Result :=
  withOperand .kin0 s.kin0 fun k0 => withOperand .kin1 s.kin1 fun k1 => k k0 k1

/-- Reads the stored key, K0 and K1 together (R48, R49, R152). -/
def withStoredKey (s : State) (k : Word → Word → Result) : Result := k s.k0 s.k1

end Sys2Proof.Machine
end

