-- ==== Sys2Proof/Machine/Uuid.lean ====
section
/-!
DEFINITION. The UUID value format (10_state.md R21, 00_scope.md R11, R13), the nonce (41_mask.md R100), the XOR-combine
unit (42_transform.md R120) and the version rewriter (R122).
-/

namespace Sys2Proof.Machine

/-- ts(U) = U[127:80], the 48-bit timestamp field (R13, R21). -/
def ts (u : Uuid) : BitVec 48 := u.extractLsb' 80 48

/-- time_hi = U[127:96] (R21). -/
def timeHi (u : Uuid) : BitVec 32 := u.extractLsb' 96 32

/-- time_mid = U[95:80] (R21). -/
def timeMid (u : Uuid) : BitVec 16 := u.extractLsb' 80 16

/-- ver(U) = U[79:76] (R13). -/
def ver (u : Uuid) : BitVec 4 := u.extractLsb' 76 4

/-- rand_a(U) = U[75:64] (R13). -/
def randA (u : Uuid) : BitVec 12 := u.extractLsb' 64 12

/-- var(U) = U[63:62] (R13). -/
def variant (u : Uuid) : BitVec 2 := u.extractLsb' 62 2

/-- rand_b(U) = U[61:0] (R13). -/
def randB (u : Uuid) : BitVec 62 := u.extractLsb' 0 62

/-- B[i] = U[127-8i : 120-8i], byte 0 the most significant (R11); i is 0..15. -/
def byteAt (u : Uuid) (i : Nat) : Byte := u.extractLsb' (120 - 8 * i) 8

/-- nonce(U) = zext_64(rand_b(U)) (R100). -/
def nonce (u : Uuid) : Word := (randB u).setWidth 64

/-- xor_ts(U, M) = U ^ (zext_128(M) << 80) (R120). -/
def xorTs (u : Uuid) (m : Mask) : Uuid := u ^^^ (m.setWidth 128 <<< 80)

/-- set_ver(U, v) = (U & ~(0xf << 76)) | (zext_128(v) << 76) (R122). -/
def setVer (u : Uuid) (v : Nibble) : Uuid := (u &&& ~~~(0xf#128 <<< 76)) ||| (v.setWidth 128 <<< 76)

end Sys2Proof.Machine
end

