-- ==== Sys2Proof/Machine/Codec.lean ====
section
/-!
DEFINITION. The codec family: PARSE, SERIALIZE, VALIDATE (40_codec.md R81-R83).
-/

namespace Sys2Proof.Machine

/-- PARSE (R81): the text's value to UOUT, or INVALID_FORMAT. Version and variant are not checked. -/
def execParse (s : State) : Result :=
  withText s fun r =>
    match r with
    | none => raiseError .invalidFormat s
    | some u => finish false (s.writeUout u)

/-- SERIALIZE (R82): canonical lower-case text of UIN to TOUT. It never fails. -/
def execSerialize (s : State) : Result :=
  withOperand .uin s.uin fun u => finish false (s.writeTout (serializeText u))

/-- The verdict of VALIDATE (R83): the text parses, its version is in 1..8 and its variant is 10b. -/
def validText (r : Option Uuid) : Bool :=
  match r with
  | none => false
  | some u => decide (1#4 ≤ ver u ∧ ver u ≤ 8#4 ∧ variant u = 0b10#2)

/-- VALIDATE (R83): the verdict to STATUS.BOOL. It never fails and writes no result port. -/
def execValidate (s : State) : Result := withText s fun r => finish (validText r) s

end Sys2Proof.Machine
end

