-- ==== Sys2Proof/Machine/MaskGen.lean ====
section
/-!
DEFINITION. MASKGEN, the keyed mask generator (41_mask.md R100-R102): the nonce's message octets, SipHash-2-4, which is
the spec's decided value of MASK_PRF (R101, D13), and the 48-bit mask. What is stated of every MASK_PRF takes it as an
argument (the definitions ending in With).
-/

namespace Sys2Proof.Machine

/-- The four working words v0..v3 of MASKGEN; they exist only during one command (R34). -/
structure SipState where
  v0 : Word
  v1 : Word
  v2 : Word
  v3 : Word
  deriving DecidableEq, Repr

/-- The first line of SipRound (R101). -/
def sipHalfA (v : SipState) : SipState :=
  let v0 := v.v0 + v.v1
  let v1 := v.v1.rotateLeft 13 ^^^ v0
  { v with v0 := v0.rotateLeft 32, v1 := v1 }

/-- The second line of SipRound (R101). -/
def sipHalfB (v : SipState) : SipState :=
  let v2 := v.v2 + v.v3
  { v with v2 := v2, v3 := v.v3.rotateLeft 16 ^^^ v2 }

/-- The third line of SipRound (R101). -/
def sipHalfC (v : SipState) : SipState :=
  let v0 := v.v0 + v.v3
  { v with v0 := v0, v3 := v.v3.rotateLeft 21 ^^^ v0 }

/-- The fourth line of SipRound (R101). -/
def sipHalfD (v : SipState) : SipState :=
  let v2 := v.v2 + v.v1
  let v1 := v.v1.rotateLeft 17 ^^^ v2
  { v with v1 := v1, v2 := v2.rotateLeft 32 }

/-- SipRound (R101): its four lines in order. -/
def sipRound (v : SipState) : SipState := sipHalfD (sipHalfC (sipHalfB (sipHalfA v)))

/-- v0..v3 from the key words (R101). -/
def sipInit (k0 k1 : Word) : SipState where
  v0 := k0 ^^^ 0x736f6d6570736575#64
  v1 := k1 ^^^ 0x646f72616e646f6d#64
  v2 := k0 ^^^ 0x6c7967656e657261#64
  v3 := k1 ^^^ 0x7465646279746573#64

/-- Taking in one 64-bit block: v3 ^= m, two SipRounds, v0 ^= m (R101). -/
def sipBlock (v : SipState) (m : Word) : SipState :=
  let w := sipRound (sipRound { v with v3 := v.v3 ^^^ m })
  { w with v0 := w.v0 ^^^ m }

/-- The end of SipHash-2-4: v2 ^= 0xff, four SipRounds, the XOR of the four words (R101). -/
def sipFinish (v : SipState) : Word :=
  let w := sipRound (sipRound (sipRound (sipRound { v with v2 := v.v2 ^^^ 0x00000000000000ff#64 })))
  w.v0 ^^^ w.v1 ^^^ w.v2 ^^^ w.v3

/-- SipHash-2-4 over a list of 64-bit blocks, the final block (length and tail octets) being the last of them (R101). -/
def sipHash24 (k0 k1 : Word) (blocks : List Word) : Word := sipFinish (blocks.foldl sipBlock (sipInit k0 k1))

/-- msg(N)[i] = N[63-8i : 56-8i], the message octets of a nonce, big-endian (R43 (c), R100); i is 0..7. -/
def nonceOctet (n : Word) (i : Nat) : Byte := n.extractLsb' (56 - 8 * i) 8

/-- m, the little-endian load of the 8 message octets (R43 (d), R101): the sum of msg(N)[i] << 8i. -/
def messageWord (n : Word) : Word :=
  [0, 1, 2, 3, 4, 5, 6, 7].foldl (fun acc i => acc + ((nonceOctet n i).setWidth 64 <<< (8 * i))) 0#64

/-- MASK_PRF as the spec decides it: SipHash-2-4 of the 8 octets msg(N), one full block and the final block b (R101). -/
def maskPrf : Prf := fun k0 k1 n => sipHash24 k0 k1 [messageWord n, 0x0800000000000000#64]

/-- mask48 for any MASK_PRF: its low 48 bits (R102). -/
def mask48With (prf : Prf) (k0 k1 n : Word) : Mask := (prf k0 k1 n).setWidth 48

/-- mask48(k0, k1, N) = MASK_PRF(k0, k1, N)[47:0] (R102). -/
def mask48 (k0 k1 n : Word) : Mask := mask48With maskPrf k0 k1 n

end Sys2Proof.Machine
end

