-- ==== Sys2Proof/Machine/Transform.lean ====
section
/-!
DEFINITION. The transform family: XORTS, SETVER, ENCB, DECB, ENCF, DECF, and the encode and decode cores they share with
ENC and DEC (42_transform.md R121-R127). The cores stand in two parts, the check and the value, because a command reads
the key only after the check has passed (R12, R124).
-/

namespace Sys2Proof.Machine

/-- The check of enc_core: INVALID_UUIDV7 unless version is 7 and variant is 10b (R123). -/
def encCheck (u : Uuid) : Option ErrCode :=
  if ver u ≠ 7#4 ∨ variant u ≠ 0b10#2 then some .invalidUuidv7 else none

/-- The check of dec_core: INVALID_UUID unless variant is 10b; the version is not checked (R123). -/
def decCheck (u : Uuid) : Option ErrCode :=
  if variant u ≠ 0b10#2 then some .invalidUuid else none

/-- The value of enc_core for any MASK_PRF: the mask of the input's nonce XORed into the timestamp, version 4 (R123). -/
def encValueWith (prf : Prf) (k0 k1 : Word) (u : Uuid) : Uuid :=
  setVer (xorTs u (mask48With prf k0 k1 (nonce u))) 4#4

/-- The value of dec_core for any MASK_PRF: as enc_core's, with version 7 (R123). -/
def decValueWith (prf : Prf) (k0 k1 : Word) (u : Uuid) : Uuid :=
  setVer (xorTs u (mask48With prf k0 k1 (nonce u))) 7#4

/-- enc_core for any MASK_PRF (R123). -/
def encCoreWith (prf : Prf) (u : Uuid) (k0 k1 : Word) : Except ErrCode Uuid :=
  match encCheck u with
  | some e => .error e
  | none => .ok (encValueWith prf k0 k1 u)

/-- dec_core for any MASK_PRF (R123). -/
def decCoreWith (prf : Prf) (u : Uuid) (k0 k1 : Word) : Except ErrCode Uuid :=
  match decCheck u with
  | some e => .error e
  | none => .ok (decValueWith prf k0 k1 u)

/-- enc_core (R123). -/
def encCore (u : Uuid) (k0 k1 : Word) : Except ErrCode Uuid := encCoreWith maskPrf u k0 k1

/-- dec_core (R123). -/
def decCore (u : Uuid) (k0 k1 : Word) : Except ErrCode Uuid := decCoreWith maskPrf u k0 k1

/-- A core on the value in UIN: the check, then the key, then the result to UOUT (R124, R125). -/
def runBinary (check : Uuid → Option ErrCode) (value : Word → Word → Uuid → Uuid) (s : State) : Result :=
  withOperand .uin s.uin fun u =>
    match check u with
    | some e => raiseError e s
    | none => withExplicitKey s fun k0 k1 => finish false (s.writeUout (value k0 k1 u))

/-- A core on the text in TLEN and TIN: parse, the check, then the key, then the serialized result to TOUT
(R126, R127, R152, R153). -/
def runText (check : Uuid → Option ErrCode) (value : Word → Word → Uuid → Uuid)
    (key : (Word → Word → Result) → Result) (s : State) : Result :=
  withText s fun r =>
    match r with
    | none => raiseError .invalidFormat s
    | some u =>
      match check u with
      | some e => raiseError e s
      | none => key fun k0 k1 => finish false (s.writeTout (serializeText (value k0 k1 u)))

/-- XORTS (R121): UIN with the mask in MIN XORed into its timestamp field, to UOUT. It never fails. -/
def execXorts (s : State) : Result :=
  withOperand .uin s.uin fun u => withOperand .min s.min fun m => finish false (s.writeUout (xorTs u m))

/-- SETVER (R122): UIN with its version field replaced by VIN, to UOUT. It never fails. -/
def execSetver (s : State) : Result :=
  withOperand .uin s.uin fun u => withOperand .vin s.vin fun v => finish false (s.writeUout (setVer u v))

/-- ENCB (R124): enc_core on UIN with the explicit key. -/
def execEncb (s : State) : Result := runBinary encCheck (encValueWith maskPrf) s

/-- DECB (R125): dec_core on UIN with the explicit key. -/
def execDecb (s : State) : Result := runBinary decCheck (decValueWith maskPrf) s

/-- ENCF (R126): enc_core on the text with the explicit key. -/
def execEncf (s : State) : Result := runText encCheck (encValueWith maskPrf) (withExplicitKey s) s

/-- DECF (R127): dec_core on the text with the explicit key. -/
def execDecf (s : State) : Result := runText decCheck (decValueWith maskPrf) (withExplicitKey s) s

end Sys2Proof.Machine
end

