-- ==== Sys2Proof/Machine/KeyContext.lean ====
section
/-!
DEFINITION. The key-context family: SETKEYS, HASKEYS, ENC, DEC (43_keyctx.md R150-R153).
-/

namespace Sys2Proof.Machine

/-- SETKEYS (R150): MISSING_KEY_ARGUMENT unless KPRES is 0b11; else the explicit key to KEYREG in one step, BOOL 1. -/
def execSetkeys (s : State) : Result :=
  withOperand .kpres s.kpres fun p =>
    if p ≠ 0b11#2 then raiseError .missingKeyArgument s
    else withExplicitKey s fun k0 k1 => finish true (s.storeKey k0 k1)

/-- HASKEYS (R151): KVALID to STATUS.BOOL. It reads no port and never fails. -/
def execHaskeys (s : State) : Result := finish s.kvalid s

/-- The key check of ENC and DEC, made before anything else: KEYS_NOT_SET when KVALID is 0 (R152, R153, R174). -/
def ifKeySet (s : State) (k : Result) : Result :=
  if s.kvalid then k else raiseError .keysNotSet s

/-- ENC (R152): ENCF with the stored key. -/
def execEnc (s : State) : Result :=
  ifKeySet s (runText encCheck (encValueWith maskPrf) (withStoredKey s) s)

/-- DEC (R153): DECF with the stored key. -/
def execDec (s : State) : Result :=
  ifKeySet s (runText decCheck (decValueWith maskPrf) (withStoredKey s) s)

end Sys2Proof.Machine
end

