-- ==== Sys2Proof/Machine/Mask.lean ====
section
/-!
DEFINITION. The mask family: MASK (41_mask.md R103).
-/

namespace Sys2Proof.Machine

/-- MASK (R103): the mask of the explicit key and the nonce in NIN to MOUT. It never fails. The order in which several
unwritten ports are found is that of R62's column 'reads': DESIGN CHOICE, log entry 7. -/
def execMask (s : State) : Result :=
  withExplicitKey s fun k0 k1 =>
    withOperand .nin s.nin fun n => finish false (s.writeMout (mask48 k0 k1 n))

end Sys2Proof.Machine
end

