-- ==== Sys2Proof/Machine/Events.lean ====
section
/-!
DEFINITION. What each event of the single order does (20_memory.md R47): a host write, a host read, a command word, a reset
(10_state.md R25, R30, 30_encoding.md R60, R65, 70_reset_and_hazards.md R201), and the taking of the next event. The block
has no program counter and fetches nothing (R32): the event at the head of pending takes the place of a fetch.
-/

namespace Sys2Proof.Machine

/-- A host write: it changes only the port written, whole (R25, R27, R46). -/
def writeOperand (v : OperandVal) (s : State) : State :=
  match v with
  | .tlen x => { s with tlen := some x }
  | .tin x => { s with tin := some x }
  | .uin x => { s with uin := some x }
  | .kin0 x => { s with kin0 := some x }
  | .kin1 x => { s with kin1 := some x }
  | .kpres x => { s with kpres := some x }
  | .nin x => { s with nin := some x }
  | .min x => { s with min := some x }
  | .vin x => { s with vin := some x }

/-- The value a port holds, none while it is unwritten (R25, R26, R30). -/
def portValue (p : Port) (s : State) : Option PortVal :=
  match p with
  | .tlen => s.tlen.map fun v => .operand (.tlen v)
  | .tin => s.tin.map fun v => .operand (.tin v)
  | .uin => s.uin.map fun v => .operand (.uin v)
  | .kin0 => s.kin0.map fun v => .operand (.kin0 v)
  | .kin1 => s.kin1.map fun v => .operand (.kin1 v)
  | .kpres => s.kpres.map fun v => .operand (.kpres v)
  | .nin => s.nin.map fun v => .operand (.nin v)
  | .min => s.min.map fun v => .operand (.min v)
  | .vin => s.vin.map fun v => .operand (.vin v)
  | .tout => s.tout.map fun v => .result (.tout v)
  | .uout => s.uout.map fun v => .result (.uout v)
  | .mout => s.mout.map fun v => .result (.mout v)

/-- The hosts see one thing more (R207); nothing of the block changes (R46). -/
def observe (o : Observation) (s : State) : State := { s with observed := s.observed ++ [o] }

/-- A host read of a port: the value it holds. The spec has a model fault on an unwritten one: R30 for a result port, and
for 'Reading a port that holds no value' D30 and item 9 of 93_implementation_defined.md; that these words take in an
operand port is DEDUCED, log entry 8. -/
def hostRead (p : Port) (s : State) : Result :=
  match portValue p s with
  | some v => .next (observe (.port v) s)
  | none => .fault (.unwrittenPort p)

/-- A command word: the command it selects, or the defined effect of an illegal word (R60, R64, R65). -/
def runCommand (w : Byte) (s : State) : Result :=
  match decode w with
  | .ok i => exec i s
  | .error _ => execIllegal s

/-- STATUS after a completed command is what the run shows of it (R207), whichever host issued it (log entry 22). -/
def recordStatus (r : Result) : Result :=
  match r with
  | .next t => .next (observe (.status t.status) t)
  | .fault f => .fault f
  | .refused x => .refused x

/-- Reset: every field of the block at its reset value, K0 and K1 unspecified anew (R200, R201). What the hosts have still
to do and have seen is theirs and stays: DESIGN CHOICE, log entry 12. -/
def resetBlock (s : State) : State :=
  { State.reset with
    k0 := Config.k0AtReset (s.resetCount + 1)
    k1 := Config.k1AtReset (s.resetCount + 1)
    pending := s.pending
    observed := s.observed
    resetCount := s.resetCount + 1 }

/-- The effect of one event (R47). -/
def execEvent (e : HostEvent) (s : State) : Result :=
  match e with
  | .write v => .next (writeOperand v s)
  | .read p => hostRead p s
  | .readStatus => .next (observe (.statusRead s.status) s)
  | .command w => recordStatus (runCommand w s)
  | .reset => .next (resetBlock s)

/-- Takes the next event of the order and does it. With no event left the run has ended (R207) and nothing changes:
DESIGN CHOICE, log entry 6. -/
def takeEvent (s : State) : Result :=
  match s.pending with
  | [] => .next s
  | e :: rest => execEvent e.event { s with pending := rest }

/-- A host presents a command word as the next event (R60). -/
def presentWord (host : Nat) (w : Byte) (s : State) : State :=
  { s with pending := { host := host, event := .command w } :: s.pending }

/-- A host's events are put at the end of the order. -/
def appendEvents (host : Nat) (es : List HostEvent) (s : State) : State :=
  { s with pending := s.pending ++ es.map fun e => { host := host, event := e } }

end Sys2Proof.Machine
end

