-- ==== Sys2Proof/Machine/Step.lean ====
section
/-!
DEFINITION. One step: the next event of the single order of 20_memory.md R47, whole (R60, R205).
-/

namespace Sys2Proof.Machine

/-- One step of the machine: one event (R47), in one step and without duration (R205). -/
def step (s : State) : Host.Outcome State Fault Refusal := takeEvent s

/-- The state in which the next step runs the command word that a table row of nbits bits with value w lays out: the word
is presented by host 0 as the next event (R60, log entry 1). -/
def State.withFetchWord (s : State) (nbits w : Nat) : State := presentWord 0 (tableWord nbits w) s

end Sys2Proof.Machine
end

