-- ==== Sys2Proof/Machine/HostProgram.lean ====
section
/-!
DEFINITION. Host programs as data: the text transport (10_state.md R28), the lines of a host program (30_encoding.md R67)
and the pseudo-instructions (R68), each turned into the events of the single order. A line whose value the host cannot
pass (a literal wider than its port, a key half that is no 64-bit number) has no meaning and gives no events (D19, 93
item 6, log entry 15).
-/

namespace Sys2Proof.Machine

/-- The octet a host writes for a character: its ASCII code, 0xFF for every other character (R28). -/
def charOctet (c : Char) : Byte := if c.toNat ≤ 0x7F then BitVec.ofNat 8 c.toNat else 0xFF#8

/-- The value the host writes to TLEN for n characters: min(n, 2^32-1) (R28). -/
def textLength (n : Nat) : BitVec 32 := if n ≤ 0xFFFFFFFF then BitVec.ofNat 32 n else 0xFFFFFFFF#32

/-- The 36 octets of a string of 36 characters (R28). For another length R28 says only that the host need not write TIN, and
not what is written if it does: none, so no such string goes to TIN. DESIGN CHOICE, log entry 15. -/
def textOfChars (cs : List Char) : Option Text :=
  if h : cs.length = 36 then some (Vector.ofFn fun i : Fin 36 => charOctet (cs[i.val]'(by omega))) else none

/-- The events with which a host passes a string: WR TLEN, and WR TIN only for 36 characters (R28, R68 LDTXT). -/
def textEvents (cs : List Char) : List HostEvent :=
  match textOfChars cs with
  | some t => [.write (.tlen (textLength cs.length)), .write (.tin t)]
  | none => [.write (.tlen (textLength cs.length))]

/-- The 36 octets of a 288-bit number, character 0 the most significant octet. R67 allows a number for TIN and gives no
octet order: DESIGN CHOICE, the order of R43 (b), log entry 15. -/
def textOfNat (v : Nat) : Text := Vector.ofFn fun i : Fin 36 => BitVec.ofNat 8 (v / 256 ^ (35 - i.val))

/-- The value of a numeric literal for a port (R67): none where the port is no operand port or the literal does not fit. -/
def operandOfNat (p : Port) (v : Nat) : Option OperandVal :=
  match p with
  | .tlen => if v < 2 ^ 32 then some (.tlen (BitVec.ofNat 32 v)) else none
  | .tin => if v < 256 ^ 36 then some (.tin (textOfNat v)) else none
  | .uin => if v < 2 ^ 128 then some (.uin (BitVec.ofNat 128 v)) else none
  | .kin0 => if v < 2 ^ 64 then some (.kin0 (BitVec.ofNat 64 v)) else none
  | .kin1 => if v < 2 ^ 64 then some (.kin1 (BitVec.ofNat 64 v)) else none
  | .kpres => if v < 2 ^ 2 then some (.kpres (BitVec.ofNat 2 v)) else none
  | .nin => if v < 2 ^ 64 then some (.nin (BitVec.ofNat 64 v)) else none
  | .min => if v < 2 ^ 48 then some (.min (BitVec.ofNat 48 v)) else none
  | .vin => if v < 2 ^ 4 then some (.vin (BitVec.ofNat 4 v)) else none
  | .tout => none
  | .uout => none
  | .mout => none

/-- A line of a host program (R67) or a pseudo-instruction (R68). -/
inductive Line where
  /-- a mnemonic: issue the command -/
  | command (i : Instr)
  /-- WR of a numeric literal -/
  | wr (p : Port) (v : Nat)
  /-- WR TIN of a quoted string -/
  | wrString (cs : List Char)
  /-- WR UIN of u"canonical text" -/
  | wrUuid (cs : List Char)
  /-- RD of a port -/
  | rd (p : Port)
  /-- RD STATUS -/
  | rdStatus
  /-- .byte: a raw command word -/
  | rawByte (w : Nat)
  /-- LDTXT "s" -/
  | ldtxt (cs : List Char)
  /-- LDKEY k0, k1 -/
  | ldkey (k0 k1 : Nat)
  /-- SETK k0, k1 -/
  | setk (k0 k1 : Nat)
  /-- SETK0 k0 -/
  | setk0 (k0 : Nat)
  /-- ENCT "s", k0, k1 -/
  | enct (cs : List Char) (k0 k1 : Nat)
  /-- DECT "s", k0, k1 -/
  | dect (cs : List Char) (k0 k1 : Nat)
  /-- VALID "s" -/
  | valid (cs : List Char)
  deriving DecidableEq, Repr

/-- The expansion of LDTXT (R68): WR TLEN with the saturated count; then, only for 36 characters, WR TIN. -/
def ldtxtLines (cs : List Char) : List Line :=
  .wr .tlen (textLength cs.length).toNat :: if cs.length = 36 then [.wrString cs] else []

/-- The expansion of LDKEY (R68). -/
def ldkeyLines (k0 k1 : Nat) : List Line := [.wr .kin0 k0, .wr .kin1 k1, .wr .kpres 3]

/-- The expansion of a pseudo-instruction (R68); a line of R67 stands for itself. -/
def expandLine (l : Line) : List Line :=
  match l with
  | .command i => [.command i]
  | .wr p v => [.wr p v]
  | .wrString cs => [.wrString cs]
  | .wrUuid cs => [.wrUuid cs]
  | .rd p => [.rd p]
  | .rdStatus => [.rdStatus]
  | .rawByte w => [.rawByte w]
  | .ldtxt cs => ldtxtLines cs
  | .ldkey k0 k1 => ldkeyLines k0 k1
  | .setk k0 k1 => ldkeyLines k0 k1 ++ [.command .setkeys]
  | .setk0 k0 => [.wr .kin0 k0, .wr .kpres 1, .command .setkeys]
  | .enct cs k0 k1 => ldtxtLines cs ++ ldkeyLines k0 k1 ++ [.command .encf]
  | .dect cs k0 k1 => ldtxtLines cs ++ ldkeyLines k0 k1 ++ [.command .decf]
  | .valid cs => ldtxtLines cs ++ [.command .validate]

/-- The event of a line of R67; none where the line has no meaning, and for a pseudo-instruction, which is expanded first.
WR TIN with a quoted string that is not 36 characters has no meaning: R67 and R28 do not say what it writes. DESIGN CHOICE,
log entry 15. -/
def lineEvent (l : Line) : Option HostEvent :=
  match l with
  | .command i => some (.command (encode i))
  | .wr p v => (operandOfNat p v).map .write
  | .wrString cs => (textOfChars cs).map fun t => .write (.tin t)
  | .wrUuid cs => ((textOfChars cs).bind parseChars).map fun u => .write (.uin u)
  | .rd p => some (.read p)
  | .rdStatus => some .readStatus
  | .rawByte w => if w < 256 then some (.command (BitVec.ofNat 8 w)) else none
  | .ldtxt _ => none
  | .ldkey _ _ => none
  | .setk _ _ => none
  | .setk0 _ => none
  | .enct _ _ _ => none
  | .dect _ _ _ => none
  | .valid _ => none

/-- The events of any line, none where some part of it has no meaning. -/
def lineEvents (l : Line) : Option (List HostEvent) := (expandLine l).mapM lineEvent

/-- A line is well-formed when it has a meaning. -/
def lineWf (l : Line) : Bool := (lineEvents l).isSome

/-- The events of a host program, in order (R67); none, for the whole program, where one line has no meaning: DESIGN CHOICE,
log entry 15. -/
def programEvents (ls : List Line) : Option (List HostEvent) := (ls.mapM lineEvents).map List.flatten

/-- The command word of an event; host writes and reads are not encoded (R67). -/
def eventWord (e : HostEvent) : Option Byte :=
  match e with
  | .command w => some w
  | .write _ => none
  | .read _ => none
  | .readStatus => none
  | .reset => none

/-- The encoding of a program: its command bytes in order (R67). -/
def programWords (es : List HostEvent) : List Byte := es.filterMap eventWord

/-- A run has ended when the program's last line has taken effect (R207). Of several hosts' programs whose events interleave
R207 does not say when one has ended: here the run is that of all of them together, and it has ended when no host has an
event left. DESIGN CHOICE, log entry 22. -/
def ended (s : State) : Bool := s.pending.isEmpty

end Sys2Proof.Machine
end

