-- ==== Sys2Proof/Safety.lean ====
section
/-!
DEFINITION. The terms in which statements about the block are made: what text is canonical, what STATUS values are legal,
when a command has every operand it reads, which parts of two states agree, and the invariants of a run.
-/

namespace Sys2Proof.Machine

/-- The octet is an ASCII hex digit of either case (R80). -/
abbrev IsHexOctet (c : Byte) : Prop :=
  (0x30#8 ≤ c ∧ c ≤ 0x39#8) ∨ (0x41#8 ≤ c ∧ c ≤ 0x46#8) ∨ (0x61#8 ≤ c ∧ c ≤ 0x66#8)

/-- The text is canonical: '-' at positions 8, 13, 18 and 23, a hex digit at every other position (R80). -/
abbrev IsCanonical (t : Text) : Prop :=
  ∀ i : Fin 36, if i.val = 8 ∨ i.val = 13 ∨ i.val = 18 ∨ i.val = 23 then t[i] = 0x2D#8 else IsHexOctet t[i]

/-- The character is 'A'..'F' (R84). -/
abbrev IsUpperOctet (c : Byte) : Prop := 0x41#8 ≤ c ∧ c ≤ 0x46#8

/-- The text is canonical and holds no upper-case digit: what serialize_text gives (R80, R82). -/
abbrev IsLowerCanonical (t : Text) : Prop := IsCanonical t ∧ ∀ i : Fin 36, ¬ IsUpperOctet t[i]

/-- The string is canonical text: 36 characters, '-' at positions 8, 13, 18 and 23, a hex digit at every other (R80). -/
abbrev IsCanonicalString (cs : List Char) : Prop :=
  cs.length = 36 ∧ ∀ i : Fin 36,
    match cs[i.val]? with
    | some c =>
      if i.val = 8 ∨ i.val = 13 ∨ i.val = 18 ∨ i.val = 23 then c = '-'
      else ('0' ≤ c ∧ c ≤ '9') ∨ ('A' ≤ c ∧ c ≤ 'F') ∨ ('a' ≤ c ∧ c ≤ 'f')
    | none => False

/-- The text operand of a command, TLEN and TIN, is readable and parses to r, none being a failure (R80): TIN is not
looked at unless TLEN is 36. -/
def TextGives (s : State) (r : Option Uuid) : Prop :=
  (∃ n, s.tlen = some n ∧ n ≠ 36#32 ∧ r = none) ∨ (∃ t, s.tlen = some 36#32 ∧ s.tin = some t ∧ r = parseText 36#32 t)

/-- enc_core accepts the value: version 7 and variant 10b (R123). -/
def IsV7 (u : Uuid) : Prop := ver u = 7#4 ∧ variant u = 0b10#2

/-- The STATUS values the block writes: bits 7:4 zero, ERR not 7, BOOL 0 whenever ERR is not 0 (R23). -/
def LegalStatus (v : BitVec 8) : Prop :=
  statusReserved v = 0#4 ∧ statusErr v ≠ 7#3 ∧ (statusErr v ≠ 0#3 → statusBool v = false)

/-- An observation of STATUS is of a legal value (R23). -/
def LegalObservation : Observation → Prop
  | .status v => LegalStatus v
  | .statusRead v => LegalStatus v
  | .port _ => True

/-- STATUS is legal, and every STATUS value the hosts have seen was (R23). -/
def State.StatusInv (s : State) : Prop := LegalStatus s.status ∧ ∀ o ∈ s.observed, LegalObservation o

/-- TOUT, once written, holds canonical text without upper-case digits (R26, R80, R82). -/
def State.TextInv (s : State) : Prop := ∀ t, s.tout = some t → IsLowerCanonical t

/-- Every event still to come was issued by one of the HOSTS (R8, R183), a reset included: that a host issues it is the
model's choice, log entry 12. -/
def State.HostsInv (s : State) : Prop := ∀ e ∈ s.pending, e.host < Config.hosts

/-- KEYREG is the same (R22). -/
def SameKey (s t : State) : Prop := t.k0 = s.k0 ∧ t.k1 = s.k1 ∧ t.kvalid = s.kvalid

/-- The nine operand ports are the same (R25). -/
def SameOperands (s t : State) : Prop :=
  t.tlen = s.tlen ∧ t.tin = s.tin ∧ t.uin = s.uin ∧ t.kin0 = s.kin0 ∧ t.kin1 = s.kin1 ∧ t.kpres = s.kpres ∧
    t.nin = s.nin ∧ t.min = s.min ∧ t.vin = s.vin

/-- The three result ports are the same (R26). -/
def SameResults (s t : State) : Prop := t.tout = s.tout ∧ t.uout = s.uout ∧ t.mout = s.mout

/-- The model's own fields are the same. -/
def SameHostSide (s t : State) : Prop :=
  t.pending = s.pending ∧ t.observed = s.observed ∧ t.resetCount = s.resetCount

/-- The two states differ at most in K0 and K1. -/
def SameButKeyWords (s t : State) : Prop := t = { s with k0 := t.k0, k1 := t.k1 }

/-- KIN0 and KIN1 are written. -/
def KeyPortsWritten (s : State) : Prop := s.kin0.isSome ∧ s.kin1.isSome

/-- The command stops on an unwritten port, naming one that is unwritten (R30). -/
def FaultsUnwritten (i : Instr) (s : State) : Prop := ∃ p, exec i s = .fault (.unwrittenPort p) ∧ portValue p s = none

/-- The port that a host write writes (R25). -/
def portOf : OperandVal → Port
  | .tlen _ => .tlen
  | .tin _ => .tin
  | .uin _ => .uin
  | .kin0 _ => .kin0
  | .kin1 _ => .kin1
  | .kpres _ => .kpres
  | .nin _ => .nin
  | .min _ => .min
  | .vin _ => .vin

/-- Every operand port that the command reads on the path it takes is written (R30, R62, R202 (2)). -/
def Ready (i : Instr) (s : State) : Prop :=
  match i with
  | .parse => ∃ r, TextGives s r
  | .serialize => s.uin.isSome
  | .validate => ∃ r, TextGives s r
  | .mask => KeyPortsWritten s ∧ s.nin.isSome
  | .xorts => s.uin.isSome ∧ s.min.isSome
  | .setver => s.uin.isSome ∧ s.vin.isSome
  | .encb => ∃ u, s.uin = some u ∧ (IsV7 u → KeyPortsWritten s)
  | .decb => ∃ u, s.uin = some u ∧ (variant u = 0b10#2 → KeyPortsWritten s)
  | .encf => ∃ r, TextGives s r ∧ ∀ u, r = some u → IsV7 u → KeyPortsWritten s
  | .decf => ∃ r, TextGives s r ∧ ∀ u, r = some u → variant u = 0b10#2 → KeyPortsWritten s
  | .setkeys => ∃ p, s.kpres = some p ∧ (p = 0b11#2 → KeyPortsWritten s)
  | .haskeys => True
  | .enc => s.kvalid = true → ∃ r, TextGives s r
  | .dec => s.kvalid = true → ∃ r, TextGives s r

/-- The event neither resets the block nor runs SETKEYS, so it leaves KEYREG alone (R22, R155). -/
def KeepsKey (e : Issued) : Prop := e.event ≠ .reset ∧ e.event ≠ .command 0x0B#8

end Sys2Proof.Machine
end

