-- ==== Sys2Proof/Certificates/Slice0/Obligations.lean ====
section
/-!
DEFINITION. The statements about the block, from the numbered rules of spec/. STATUS values are written as numbers: 0x00
success with BOOL 0, 0x08 success with BOOL 1, 0x01..0x06 the error codes of R170.
-/

open Sys2Proof Sys2Proof.Machine

/-! ## Words and decoding -/

/-- R64: decoding is by exact match of all 8 bits: each word 0x01..0x0E selects its command of R62 and no other word
selects any. -/
def Obligations.DecodeIsExactMatch : Prop :=
  decode 0x01#8 = .ok .parse ∧ decode 0x02#8 = .ok .serialize ∧ decode 0x03#8 = .ok .validate ∧
  decode 0x04#8 = .ok .mask ∧ decode 0x05#8 = .ok .xorts ∧ decode 0x06#8 = .ok .setver ∧
  decode 0x07#8 = .ok .encb ∧ decode 0x08#8 = .ok .decb ∧ decode 0x09#8 = .ok .encf ∧
  decode 0x0A#8 = .ok .decf ∧ decode 0x0B#8 = .ok .setkeys ∧ decode 0x0C#8 = .ok .haskeys ∧
  decode 0x0D#8 = .ok .enc ∧ decode 0x0E#8 = .ok .dec ∧
  ∀ w : Byte, w = 0x00#8 ∨ 0x0F#8 ≤ w → decode w = .error (.illegalCommand w)

/-- Decoding and encoding agree in both directions: a well-formed command's word decodes to it, and only
that word does. -/
def Obligations.DecodeEncodeAgree : Prop :=
  (∀ i : Instr, i.wf = true → decode (encode i) = .ok i) ∧
  ∀ (w : Byte) (i : Instr), decode w = .ok i → encode i = w

/-! ## Steps and events -/

/-- R60: when the next event is a word that decodes to i, step is exec of i on the state without that event; STATUS after a
completed command is added to what the hosts have seen (R207; the list of observations is the model's own, log 5). -/
def Obligations.StepRunsDecodedCommand : Prop :=
  ∀ (s : State) (h : Nat) (w : Byte) (rest : List Issued) (i : Instr),
    s.pending = { host := h, event := .command w } :: rest → decode w = .ok i →
    step s =
      match exec i { s with pending := rest } with
      | .next t => .next { t with observed := t.observed ++ [.status t.status] }
      | .fault f => .fault f
      | .refused r => .refused r

/-- R65: an illegal command word sets STATUS to 0x06 and changes nothing else of the block, and reads no port. -/
def Obligations.IllegalWordOnlySetsStatus : Prop :=
  ∀ (s : State) (h : Nat) (w : Byte) (rest : List Issued),
    s.pending = { host := h, event := .command w } :: rest → (w = 0x00#8 ∨ 0x0F#8 ≤ w) →
    step s = .next { s with status := 0x06#8, pending := rest, observed := s.observed ++ [.status 0x06#8] }

/-- R25, R46: a host write changes only the port written, and gives it the value written. -/
def Obligations.HostWriteChangesOneOperandPort : Prop :=
  ∀ (s : State) (h : Nat) (v : OperandVal) (rest : List Issued),
    s.pending = { host := h, event := .write v } :: rest →
    (∀ x, v = .tlen x → step s = .next { s with tlen := some x, pending := rest }) ∧
    (∀ x, v = .tin x → step s = .next { s with tin := some x, pending := rest }) ∧
    (∀ x, v = .uin x → step s = .next { s with uin := some x, pending := rest }) ∧
    (∀ x, v = .kin0 x → step s = .next { s with kin0 := some x, pending := rest }) ∧
    (∀ x, v = .kin1 x → step s = .next { s with kin1 := some x, pending := rest }) ∧
    (∀ x, v = .kpres x → step s = .next { s with kpres := some x, pending := rest }) ∧
    (∀ x, v = .nin x → step s = .next { s with nin := some x, pending := rest }) ∧
    (∀ x, v = .min x → step s = .next { s with min := some x, pending := rest }) ∧
    (∀ x, v = .vin x → step s = .next { s with vin := some x, pending := rest })

/-- R25, R26, R30, R46: a host read of a written port, or of STATUS, shows its value and changes nothing of the block; a
host read of an unwritten result port faults, naming it. -/
def Obligations.HostReadShowsValueAndChangesNothing : Prop :=
  (∀ (s : State) (h : Nat) (rest : List Issued) (e : HostEvent) (o : Observation),
    s.pending = { host := h, event := e } :: rest →
    ((e = .readStatus ∧ o = .statusRead s.status) ∨
      (∃ v, e = .read .tlen ∧ s.tlen = some v ∧ o = .port (.operand (.tlen v))) ∨
      (∃ v, e = .read .tin ∧ s.tin = some v ∧ o = .port (.operand (.tin v))) ∨
      (∃ v, e = .read .uin ∧ s.uin = some v ∧ o = .port (.operand (.uin v))) ∨
      (∃ v, e = .read .kin0 ∧ s.kin0 = some v ∧ o = .port (.operand (.kin0 v))) ∨
      (∃ v, e = .read .kin1 ∧ s.kin1 = some v ∧ o = .port (.operand (.kin1 v))) ∨
      (∃ v, e = .read .kpres ∧ s.kpres = some v ∧ o = .port (.operand (.kpres v))) ∨
      (∃ v, e = .read .nin ∧ s.nin = some v ∧ o = .port (.operand (.nin v))) ∨
      (∃ v, e = .read .min ∧ s.min = some v ∧ o = .port (.operand (.min v))) ∨
      (∃ v, e = .read .vin ∧ s.vin = some v ∧ o = .port (.operand (.vin v))) ∨
      (∃ v, e = .read .tout ∧ s.tout = some v ∧ o = .port (.result (.tout v))) ∨
      (∃ v, e = .read .uout ∧ s.uout = some v ∧ o = .port (.result (.uout v))) ∨
      (∃ v, e = .read .mout ∧ s.mout = some v ∧ o = .port (.result (.mout v)))) →
    step s = .next { s with pending := rest, observed := s.observed ++ [o] }) ∧
  (∀ (s : State) (h : Nat) (rest : List Issued) (p : Port),
    s.pending = { host := h, event := .read p } :: rest →
    ((p = .tout ∧ s.tout = none) ∨ (p = .uout ∧ s.uout = none) ∨ (p = .mout ∧ s.mout = none)) →
    step s = .fault (.unwrittenPort p))

/-- R200, R201: the reset event leaves no key, STATUS zero and every port unwritten. That the hosts' events and what they
have seen stay is the model's choice (log 12). -/
def Obligations.ResetEventClearsTheBlock : Prop :=
  ∀ (s : State) (h : Nat) (rest : List Issued),
    s.pending = { host := h, event := .reset } :: rest →
    ∃ t, step s = .next t ∧ t.kvalid = false ∧ t.status = 0x00#8 ∧
      t.tlen = none ∧ t.tin = none ∧ t.uin = none ∧ t.kin0 = none ∧ t.kin1 = none ∧ t.kpres = none ∧
      t.nin = none ∧ t.min = none ∧ t.vin = none ∧ t.tout = none ∧ t.uout = none ∧ t.mout = none ∧
      t.pending = rest ∧ t.observed = s.observed

/-- R200: the reset values the spec gives. -/
def Obligations.ResetStateValues : Prop :=
  State.reset.kvalid = false ∧ State.reset.status = 0x00#8 ∧
  State.reset.tlen = none ∧ State.reset.tin = none ∧ State.reset.uin = none ∧ State.reset.kin0 = none ∧
  State.reset.kin1 = none ∧ State.reset.kpres = none ∧ State.reset.nin = none ∧ State.reset.min = none ∧
  State.reset.vin = none ∧ State.reset.tout = none ∧ State.reset.uout = none ∧ State.reset.mout = none

/-- R183: the block sees no identifier of the host that issues an event. -/
def Obligations.HostIdentityIsInvisible : Prop :=
  ∀ (s : State) (h h' : Nat) (e : HostEvent) (rest : List Issued),
    step { s with pending := { host := h, event := e } :: rest } =
      step { s with pending := { host := h', event := e } :: rest }

/-! ## Results: each command completes, with its result and nothing else changed -/

/-- R81: PARSE writes the value of the text to UOUT and STATUS 0x00, whatever its version and variant; text that does not
parse gives INVALID_FORMAT and nothing else; with TLEN 36 an unwritten TIN faults. -/
def Obligations.ParseWritesUout : Prop :=
  ∀ s : State,
    (∀ u, TextGives s (some u) → exec .parse s = .next { s with uout := some u, status := 0x00#8 }) ∧
    (TextGives s none → exec .parse s = .next { s with status := 0x01#8 }) ∧
    (s.tlen = some 36#32 → s.tin = none → exec .parse s = .fault (.unwrittenPort .tin))

/-- R82: SERIALIZE writes the canonical text of UIN to TOUT and STATUS 0x00, for every value; the text never holds 'A'..'F';
an unwritten UIN faults. -/
def Obligations.SerializeWritesTout : Prop :=
  ∀ s : State,
    (∀ u, s.uin = some u → exec .serialize s = .next { s with tout := some (serializeText u), status := 0x00#8 } ∧
      ∀ i : Fin 36, ¬ IsUpperOctet (serializeText u)[i]) ∧
    (s.uin = none → exec .serialize s = .fault (.unwrittenPort .uin))

/-- R83: VALIDATE reports in BOOL whether the text is canonical with version 1..8 and variant 10b, and writes nothing
else; it never fails; with TLEN 36 an unwritten TIN faults. -/
def Obligations.ValidateReportsVerdict : Prop :=
  ∀ s : State,
    (∀ r, TextGives s r →
      ((∃ u, r = some u ∧ 1 ≤ (ver u).toNat ∧ (ver u).toNat ≤ 8 ∧ variant u = 0b10#2) →
        exec .validate s = .next { s with status := 0x08#8 }) ∧
      ((¬ ∃ u, r = some u ∧ 1 ≤ (ver u).toNat ∧ (ver u).toNat ≤ 8 ∧ variant u = 0b10#2) →
        exec .validate s = .next { s with status := 0x00#8 })) ∧
    (s.tlen = some 36#32 → s.tin = none → exec .validate s = .fault (.unwrittenPort .tin))

/-- R103: MASK writes mask48 of the explicit key and NIN to MOUT and STATUS 0x00, for every key and nonce; any unwritten
operand faults. -/
def Obligations.MaskWritesMout : Prop :=
  ∀ s : State,
    (∀ k0 k1 n : Word, s.kin0 = some k0 → s.kin1 = some k1 → s.nin = some n →
      exec .mask s = .next { s with mout := some (mask48 k0 k1 n), status := 0x00#8 }) ∧
    (s.kin0 = none ∨ s.kin1 = none ∨ s.nin = none → FaultsUnwritten .mask s)

/-- R121: XORTS writes xor_ts of UIN and MIN to UOUT and STATUS 0x00. -/
def Obligations.XortsWritesUout : Prop :=
  ∀ (s : State) (u : Uuid) (m : Mask), s.uin = some u → s.min = some m →
    exec .xorts s = .next { s with uout := some (xorTs u m), status := 0x00#8 }

/-- R122: SETVER writes set_ver of UIN and VIN to UOUT and STATUS 0x00, for every VIN. -/
def Obligations.SetverWritesUout : Prop :=
  ∀ (s : State) (u : Uuid) (v : Nibble), s.uin = some u → s.vin = some v →
    exec .setver s = .next { s with uout := some (setVer u v), status := 0x00#8 }

/-- R124: ENCB on a version-7 value of variant 10b writes the facade value to UOUT and STATUS 0x00; on any other value it
gives INVALID_UUIDV7 and nothing else, without reading the key ports; an unwritten key port faults only when it is read. -/
def Obligations.EncbWritesFacade : Prop :=
  ∀ (s : State) (u : Uuid), s.uin = some u →
    (ver u = 7#4 ∧ variant u = 0b10#2 → ∀ k0 k1, s.kin0 = some k0 → s.kin1 = some k1 →
      exec .encb s = .next
        { s with uout := some (setVer (xorTs u (mask48 k0 k1 (nonce u))) 4#4), status := 0x00#8 }) ∧
    (¬ (ver u = 7#4 ∧ variant u = 0b10#2) → exec .encb s = .next { s with status := 0x02#8 }) ∧
    (ver u = 7#4 ∧ variant u = 0b10#2 → ¬ KeyPortsWritten s → FaultsUnwritten .encb s)

/-- R125: DECB on a value of variant 10b, of any version, writes the recovered value to UOUT and STATUS 0x00; on any other
variant it gives INVALID_UUID and nothing else, without reading the key ports. -/
def Obligations.DecbWritesRecoveredValue : Prop :=
  ∀ (s : State) (u : Uuid), s.uin = some u →
    (variant u = 0b10#2 → ∀ k0 k1, s.kin0 = some k0 → s.kin1 = some k1 →
      exec .decb s = .next
        { s with uout := some (setVer (xorTs u (mask48 k0 k1 (nonce u))) 7#4), status := 0x00#8 }) ∧
    (¬ (variant u = 0b10#2) → exec .decb s = .next { s with status := 0x03#8 }) ∧
    (variant u = 0b10#2 → ¬ KeyPortsWritten s → FaultsUnwritten .decb s)

/-- R126: ENCF on canonical text of a version-7 value of variant 10b writes the facade text to TOUT and STATUS 0x00; text that
does not parse gives INVALID_FORMAT, any other value INVALID_UUIDV7, and then nothing else; the key ports are read only
after the checks. -/
def Obligations.EncfWritesFacadeText : Prop :=
  ∀ s : State,
    (TextGives s none → exec .encf s = .next { s with status := 0x01#8 }) ∧
    ∀ u, TextGives s (some u) →
      (ver u = 7#4 ∧ variant u = 0b10#2 → ∀ k0 k1, s.kin0 = some k0 → s.kin1 = some k1 →
        exec .encf s = .next
          { s with tout := some (serializeText (setVer (xorTs u (mask48 k0 k1 (nonce u))) 4#4)), status := 0x00#8 }) ∧
      (¬ (ver u = 7#4 ∧ variant u = 0b10#2) → exec .encf s = .next { s with status := 0x02#8 }) ∧
      (ver u = 7#4 ∧ variant u = 0b10#2 → ¬ KeyPortsWritten s → FaultsUnwritten .encf s)

/-- R127: DECF on canonical text of a value of variant 10b, of any version, writes the recovered text to TOUT and STATUS
0x00; text that does not parse gives INVALID_FORMAT, any other variant INVALID_UUID, and then nothing else. -/
def Obligations.DecfWritesRecoveredText : Prop :=
  ∀ s : State,
    (TextGives s none → exec .decf s = .next { s with status := 0x01#8 }) ∧
    ∀ u, TextGives s (some u) →
      (variant u = 0b10#2 → ∀ k0 k1, s.kin0 = some k0 → s.kin1 = some k1 →
        exec .decf s = .next
          { s with tout := some (serializeText (setVer (xorTs u (mask48 k0 k1 (nonce u))) 7#4)), status := 0x00#8 }) ∧
      (¬ (variant u = 0b10#2) → exec .decf s = .next { s with status := 0x03#8 }) ∧
      (variant u = 0b10#2 → ¬ KeyPortsWritten s → FaultsUnwritten .decf s)

/-- R150: SETKEYS with both halves present stores both words and sets KVALID in one step, BOOL 1; with a half absent it
reports MISSING_KEY_ARGUMENT and changes no KEYREG field, and reads neither key port. -/
def Obligations.SetkeysStoresOrReportsMissing : Prop :=
  ∀ s : State,
    (∀ k0 k1, s.kpres = some 0b11#2 → s.kin0 = some k0 → s.kin1 = some k1 →
      exec .setkeys s = .next { s with k0 := k0, k1 := k1, kvalid := true, status := 0x08#8 }) ∧
    (∀ p, s.kpres = some p → p ≠ 0b11#2 → exec .setkeys s = .next { s with status := 0x04#8 }) ∧
    (s.kpres = none → exec .setkeys s = .fault (.unwrittenPort .kpres))

/-- R151: HASKEYS reports KVALID in BOOL, reads no port and never fails. -/
def Obligations.HaskeysReportsKvalid : Prop :=
  ∀ s : State,
    (s.kvalid = true → exec .haskeys s = .next { s with status := 0x08#8 }) ∧
    (s.kvalid = false → exec .haskeys s = .next { s with status := 0x00#8 })

/-- R152: ENC without a stored key gives KEYS_NOT_SET before anything else, whatever TLEN and TIN hold, unwritten or not; with
one it does what ENCF does with K0 and K1, and KIN0, KIN1 and KPRES play no part. -/
def Obligations.EncUsesTheStoredKey : Prop :=
  ∀ s : State,
    (s.kvalid = false → exec .enc s = .next { s with status := 0x05#8 }) ∧
    (s.kvalid = true →
      (TextGives s none → exec .enc s = .next { s with status := 0x01#8 }) ∧
      ∀ u, TextGives s (some u) →
        (ver u = 7#4 ∧ variant u = 0b10#2 → exec .enc s = .next
          { s with tout := some (serializeText (setVer (xorTs u (mask48 s.k0 s.k1 (nonce u))) 4#4)), status := 0x00#8 }) ∧
        (¬ (ver u = 7#4 ∧ variant u = 0b10#2) → exec .enc s = .next { s with status := 0x02#8 }))

/-- R153: DEC without a stored key gives KEYS_NOT_SET before anything else; with one it does what DECF does with K0 and K1. -/
def Obligations.DecUsesTheStoredKey : Prop :=
  ∀ s : State,
    (s.kvalid = false → exec .dec s = .next { s with status := 0x05#8 }) ∧
    (s.kvalid = true →
      (TextGives s none → exec .dec s = .next { s with status := 0x01#8 }) ∧
      ∀ u, TextGives s (some u) →
        (variant u = 0b10#2 → exec .dec s = .next
          { s with tout := some (serializeText (setVer (xorTs u (mask48 s.k0 s.k1 (nonce u))) 7#4)), status := 0x00#8 }) ∧
        (¬ (variant u = 0b10#2) → exec .dec s = .next { s with status := 0x03#8 }))

/-! ## Errors and the fault -/

/-- R170: each error code is raised by exactly the commands and causes of its row: ERR of a completed command word is 6
exactly for an illegal word and never 7, and 1..5 exactly for the causes named, so every other completion has ERR 0. -/
def Obligations.ErrorCodesHaveExactlyTheirCauses : Prop :=
  ∀ (w : Byte) (s t : State), runCommand w s = .next t →
    (statusErr t.status = 6#3 ↔ w = 0x00#8 ∨ 0x0F#8 ≤ w) ∧ statusErr t.status ≠ 7#3 ∧
    ∀ i, decode w = .ok i →
      (statusErr t.status = 1#3 ↔
        TextGives s none ∧ (i ∈ [.parse, .encf, .decf] ∨ (i ∈ [.enc, .dec] ∧ s.kvalid = true))) ∧
      (statusErr t.status = 2#3 ↔ ∃ u, ¬ IsV7 u ∧
        ((i = .encb ∧ s.uin = some u) ∨
          (TextGives s (some u) ∧ (i = .encf ∨ (i = .enc ∧ s.kvalid = true))))) ∧
      (statusErr t.status = 3#3 ↔ ∃ u, variant u ≠ 0b10#2 ∧
        ((i = .decb ∧ s.uin = some u) ∨
          (TextGives s (some u) ∧ (i = .decf ∨ (i = .dec ∧ s.kvalid = true))))) ∧
      (statusErr t.status = 4#3 ↔ i = .setkeys ∧ s.kpres ≠ some 0b11#2) ∧
      (statusErr t.status = 5#3 ↔ i ∈ [.enc, .dec] ∧ s.kvalid = false)

/-- A command whose path reads an unwritten text port faults, naming it: TLEN always, TIN only when TLEN is 36. -/
def Obligations.UnwrittenTextPortFaults : Prop :=
  ∀ (s : State) (i : Instr) (p : Port),
    ((p = .tlen ∧ s.tlen = none) ∨ (p = .tin ∧ s.tlen = some 36#32 ∧ s.tin = none)) →
    (i ∈ [.parse, .validate, .encf, .decf] ∨ (i ∈ [.enc, .dec] ∧ s.kvalid = true)) →
    exec i s = .fault (.unwrittenPort p)

/-- A command whose path reads exactly one unwritten port among its other operands faults, naming it. -/
def Obligations.UnwrittenOperandPortFaults : Prop :=
  ∀ s : State,
    (s.uin = none → ∀ i : Instr, i ∈ [.encb, .decb] → exec i s = .fault (.unwrittenPort .uin)) ∧
    (s.uin = none → s.min.isSome → exec .xorts s = .fault (.unwrittenPort .uin)) ∧
    (s.uin = none → s.vin.isSome → exec .setver s = .fault (.unwrittenPort .uin)) ∧
    (s.uin.isSome → s.min = none → exec .xorts s = .fault (.unwrittenPort .min)) ∧
    (s.uin.isSome → s.vin = none → exec .setver s = .fault (.unwrittenPort .vin)) ∧
    (s.kin0.isSome → s.kin1.isSome → s.nin = none → exec .mask s = .fault (.unwrittenPort .nin)) ∧
    (∀ p : Port, (p = .kin0 ∧ s.kin0 = none ∧ s.kin1.isSome) ∨ (p = .kin1 ∧ s.kin0.isSome ∧ s.kin1 = none) →
      (s.nin.isSome → exec .mask s = .fault (.unwrittenPort p)) ∧
      (s.kpres = some 0b11#2 → exec .setkeys s = .fault (.unwrittenPort p)) ∧
      (∀ u, s.uin = some u → IsV7 u → exec .encb s = .fault (.unwrittenPort p)) ∧
      (∀ u, s.uin = some u → variant u = 0b10#2 → exec .decb s = .fault (.unwrittenPort p)) ∧
      (∀ u, TextGives s (some u) → IsV7 u → exec .encf s = .fault (.unwrittenPort p)) ∧
      (∀ u, TextGives s (some u) → variant u = 0b10#2 → exec .decf s = .fault (.unwrittenPort p)))

/-- A command completes exactly when every operand port on its path is written; otherwise it faults on an unwritten port.
No command is refused. -/
def Obligations.CompletesExactlyWhenReady : Prop :=
  ∀ (i : Instr) (s : State),
    (Ready i s → ∃ t, exec i s = .next t) ∧
    (¬ Ready i s → FaultsUnwritten i s)

/-! ## Frames -/

/-- PARSE, XORTS, SETVER, ENCB and DECB change UOUT and STATUS only, and UOUT only with ERR 0. -/
def Obligations.UoutWritersFrame : Prop :=
  ∀ (i : Instr) (s t : State), i ∈ [.parse, .xorts, .setver, .encb, .decb] → exec i s = .next t →
    SameKey s t ∧ SameOperands s t ∧ t.tout = s.tout ∧ t.mout = s.mout ∧ SameHostSide s t ∧
    (statusErr t.status ≠ 0#3 → t.uout = s.uout) ∧ (statusErr t.status = 0#3 → t.uout.isSome)

/-- SERIALIZE, ENCF, DECF, ENC and DEC change TOUT and STATUS only, and TOUT only with ERR 0. -/
def Obligations.ToutWritersFrame : Prop :=
  ∀ (i : Instr) (s t : State), i ∈ [.serialize, .encf, .decf, .enc, .dec] → exec i s = .next t →
    SameKey s t ∧ SameOperands s t ∧ t.uout = s.uout ∧ t.mout = s.mout ∧ SameHostSide s t ∧
    (statusErr t.status ≠ 0#3 → t.tout = s.tout) ∧ (statusErr t.status = 0#3 → t.tout.isSome)

/-- MASK changes MOUT and STATUS only; VALIDATE and HASKEYS change STATUS only. -/
def Obligations.MaskValidateHaskeysFrame : Prop :=
  ∀ (i : Instr) (s t : State), i ∈ [.mask, .validate, .haskeys] → exec i s = .next t →
    SameKey s t ∧ SameOperands s t ∧ t.tout = s.tout ∧ t.uout = s.uout ∧ SameHostSide s t ∧
    statusErr t.status = 0#3 ∧ (i ≠ .mask → t.mout = s.mout)

/-- SETKEYS changes KEYREG and STATUS only, and KEYREG only with ERR 0. -/
def Obligations.SetkeysFrame : Prop :=
  ∀ s t : State, exec .setkeys s = .next t →
    SameOperands s t ∧ SameResults s t ∧ SameHostSide s t ∧ (statusErr t.status ≠ 0#3 → SameKey s t)

/-- R173: a command word that raises an error, an illegal one included, writes STATUS with BOOL 0 and reserved bits 0 and
changes nothing else: no result port, no KEYREG field, no operand port. -/
def Obligations.ErrorWritesOnlyStatus : Prop :=
  ∀ (w : Byte) (s t : State), runCommand w s = .next t → statusErr t.status ≠ 0#3 →
    t = { s with status := t.status } ∧ statusBool t.status = false ∧ statusReserved t.status = 0#4

/-- R22: only SETKEYS and reset write KEYREG; KVALID, once 1, stays 1 until reset. -/
def Obligations.KeyWrittenOnlyBySetkeysAndReset : Prop :=
  ∀ (s t : State) (e : Issued) (rest : List Issued), s.pending = e :: rest → step s = .next t →
    (KeepsKey e → SameKey s t) ∧ (e.event ≠ .reset → s.kvalid = true → t.kvalid = true)

/-- R25, R29: no event but a host write or reset changes an operand port. -/
def Obligations.OperandPortsChangedOnlyByHost : Prop :=
  ∀ (s t : State) (e : Issued) (rest : List Issued), s.pending = e :: rest → step s = .next t →
    e.event ≠ .reset → (∀ v, e.event ≠ .write v) → SameOperands s t

/-- R24, R172: what a command does depends only on the operand ports and KEYREG: STATUS and the result ports as they stood
have no effect on its outcome, its STATUS, its KEYREG or, when it succeeds, the result it writes. -/
def Obligations.OutcomeIgnoresStatusAndResults : Prop :=
  ∀ (i : Instr) (s s' : State), SameKey s s' → SameOperands s s' →
    (∀ t, exec i s = .next t → ∃ t', exec i s' = .next t' ∧ t'.status = t.status ∧ SameKey t t' ∧
      (i ∈ [.serialize, .encf, .decf, .enc, .dec] → statusErr t.status = 0#3 → t'.tout = t.tout) ∧
      (i ∈ [.parse, .xorts, .setver, .encb, .decb] → statusErr t.status = 0#3 → t'.uout = t.uout) ∧
      (i = .mask → t'.mout = t.mout)) ∧
    (∀ f, exec i s = .fault f → exec i s' = .fault f)

/-! ## Laws of the functions -/

/-- R80: parse_text accepts exactly canonical text of length 36, and digit j is the nibble U[127-4j : 124-4j]. -/
def Obligations.ParseAcceptsExactlyCanonicalText : Prop :=
  ∀ (n : BitVec 32) (t : Text),
    ((parseText n t).isSome ↔ n = 36#32 ∧ IsCanonical t) ∧
    ∀ u, parseText n t = some u →
      ∀ (j : Fin 32) (p : Fin 36), hexPos[j.val]? = some p → hexval t[p] = some (digitAt u j.val)

/-- R80, R82: serialize_text puts '-' at the hyphen positions and the lower-case digit of nibble j at digit position j; no
octet is 'A'..'F'. -/
def Obligations.SerializeGivesLowerCaseDigits : Prop :=
  ∀ u : Uuid,
    (∀ p ∈ hyphenPos, (serializeText u)[p] = 0x2D#8) ∧
    (∀ (j : Fin 32) (p : Fin 36), hexPos[j.val]? = some p →
      (serializeText u)[p] = lowerhex (digitAt u j.val)) ∧
    IsLowerCanonical (serializeText u)

/-- R84: the round trips of text and value, with lower(). -/
def Obligations.TextRoundTrip : Prop :=
  (∀ u : Uuid, parseText 36#32 (serializeText u) = some u) ∧
  (∀ t : Text, IsCanonical t → ∃ u, parseText 36#32 t = some u ∧ serializeText u = lowerText t ∧
    (serializeText u = t ↔ ∀ i : Fin 36, ¬ IsUpperOctet t[i])) ∧
  ∀ (t : Text) (i : Fin 36), (lowerText t)[i] = if IsUpperOctet t[i] then t[i] + 0x20#8 else t[i]

/-- R85: VALIDATE gives BOOL 1 only for text that PARSE accepts; PARSE accepts all canonical text, and there is canonical
text of every version and variant. -/
def Obligations.ValidateImpliesParse : Prop :=
  (∀ s t : State, exec .validate s = .next t → statusBool t.status = true →
    ∃ t', exec .parse s = .next t' ∧ statusErr t'.status = 0#3) ∧
  (∀ (s : State) (x : Text), s.tlen = some 36#32 → s.tin = some x → IsCanonical x →
    ∃ t', exec .parse s = .next t' ∧ statusErr t'.status = 0#3) ∧
  (∀ (v : Nibble) (x : BitVec 2), ∃ (t : Text) (u : Uuid), IsCanonical t ∧ parseText 36#32 t = some u ∧ ver u = v ∧
    variant u = x)

/-- R120: XOR-combine XORs mask bit i into U[80+i], so the timestamp becomes ts XOR mask, and leaves bits 79..0 alone. -/
def Obligations.XorCombineOnlyMasksTimestamp : Prop :=
  ∀ (u : Uuid) (m : Mask),
    (∀ i : Nat, i < 48 → (xorTs u m).getLsbD (80 + i) = (u.getLsbD (80 + i) ^^ m.getLsbD i)) ∧
    ts (xorTs u m) = ts u ^^^ m ∧ (xorTs u m).extractLsb' 0 80 = u.extractLsb' 0 80 ∧ xorTs (xorTs u m) m = u

/-- The version rewriter replaces the version and leaves every other field alone. -/
def Obligations.SetVerReplacesOnlyVersion : Prop :=
  ∀ (u : Uuid) (v : Nibble),
    ver (setVer u v) = v ∧ ts (setVer u v) = ts u ∧ randA (setVer u v) = randA u ∧
    variant (setVer u v) = variant u ∧ randB (setVer u v) = randB u ∧ setVer u (ver u) = u

/-- The five fields tile the value, and the timestamp is the big-endian number of bytes B[0..5]. -/
def Obligations.FieldsTileTheValue : Prop :=
  ∀ u : Uuid,
    u.toNat = (ts u).toNat * 2 ^ 80 + (ver u).toNat * 2 ^ 76 + (randA u).toNat * 2 ^ 64 + (variant u).toNat * 2 ^ 62
      + (randB u).toNat ∧
    (ts u).toNat = (timeHi u).toNat * 2 ^ 16 + (timeMid u).toNat ∧
    (ts u).toNat = (byteAt u 0).toNat * 2 ^ 40 + (byteAt u 1).toNat * 2 ^ 32 + (byteAt u 2).toNat * 2 ^ 24
      + (byteAt u 3).toNat * 2 ^ 16 + (byteAt u 4).toNat * 2 ^ 8 + (byteAt u 5).toNat

/-- The nonce is rand_b with two zero bits above it, its message octets are B[8] without the variant, B[9..15], and the
mask's input word is those octets loaded little-endian. -/
def Obligations.NonceIsRandBBytes : Prop :=
  ∀ u : Uuid,
    (nonce u).toNat = u.toNat % 2 ^ 62 ∧ nonceOctet (nonce u) 0 = byteAt u 8 &&& 0x3F#8 ∧
    (∀ i : Nat, 1 ≤ i → i ≤ 7 → nonceOctet (nonce u) i = byteAt u (8 + i)) ∧
    (∀ (n : Word) (i : Nat), i ≤ 7 → (messageWord n).extractLsb' (8 * i) 8 = nonceOctet n i)

/-- MASK_PRF is SipHash-2-4 (the decided function, log 10): the three published vectors of 95_test_vectors.md, V-P1 (empty
message), V-P2 (octets 00..07) and V-P3 (octets 00..0e), each message as its blocks with the length in the last one; the
value of MASK_PRF in V-M4, which is V-P2's; and the masks of V-M2 and V-M4. -/
def Obligations.MaskPrfMeetsPublishedVectors : Prop :=
  sipHash24 0x0706050403020100#64 0x0f0e0d0c0b0a0908#64 [0#64] = 0x726fdb47dd0e0e31#64 ∧
  sipHash24 0x0706050403020100#64 0x0f0e0d0c0b0a0908#64 [0x0706050403020100#64, 0x0800000000000000#64] =
    0x93f5f5799a932462#64 ∧
  sipHash24 0x0706050403020100#64 0x0f0e0d0c0b0a0908#64 [0x0706050403020100#64, 0x0f0e0d0c0b0a0908#64] =
    0xa129ca6149be45e5#64 ∧
  maskPrf 0x0706050403020100#64 0x0f0e0d0c0b0a0908#64 0x0001020304050607#64 = 0x93f5f5799a932462#64 ∧
  mask48 0x0706050403020100#64 0x0f0e0d0c0b0a0908#64 0x0001020304050607#64 = 0xf5799a932462#48 ∧
  mask48 123#64 456#64 0#64 = 0x84b2904d09dc#48

/-- R128: decode recovers what encode disguised, for every MASK_PRF and key; and at the text level DECF of ENCF's output is
the input text in lower case. -/
def Obligations.FacadeRoundTrip : Prop :=
  (∀ (prf : Prf) (u : Uuid) (k0 k1 : Word), ver u = 7#4 → variant u = 0b10#2 →
    ∃ f, encCoreWith prf u k0 k1 = .ok f ∧ decCoreWith prf f k0 k1 = .ok u) ∧
  (∀ (s : State) (t : Text) (u : Uuid) (k0 k1 : Word),
    s.tlen = some 36#32 → s.tin = some t → parseText 36#32 t = some u → ver u = 7#4 → variant u = 0b10#2 →
    s.kin0 = some k0 → s.kin1 = some k1 →
    ∃ a f b, exec .encf s = .next a ∧ a.tout = some f ∧
      exec .decf { a with tin := some f } = .next b ∧ b.tout = some (lowerText t) ∧
      ((∀ i : Fin 36, ¬ IsUpperOctet t[i]) → b.tout = some t))

/-- R129: the structure of every successful output: version 4 or 7, variant 10b, rand_a and rand_b those of the input. -/
def Obligations.OutputStructure : Prop :=
  ∀ (i : Instr) (s t : State), exec i s = .next t → statusErr t.status = 0#3 →
    (i ∈ [.encb, .decb] → ∃ u f, s.uin = some u ∧ t.uout = some f ∧
      ver f = (if i = .encb then 4#4 else 7#4) ∧ variant f = 0b10#2 ∧ randA f = randA u ∧ randB f = randB u) ∧
    (i ∈ [.encf, .enc, .decf, .dec] → ∃ u f, TextGives s (some u) ∧ t.tout = some (serializeText f) ∧
      ver f = (if i = .encf ∨ i = .enc then 4#4 else 7#4) ∧ variant f = 0b10#2 ∧ randA f = randA u ∧ randB f = randB u)

/-- R130: with any MASK_PRF and any key, right or wrong, decoding any value of variant 10b succeeds, with version 7, variant
10b, the random fields of the input and its timestamp XOR the mask of the key used; likewise encoding with version 4. -/
def Obligations.WrongKeyIsNeverAnError : Prop :=
  ∀ (prf : Prf) (u : Uuid) (k0 k1 : Word), variant u = 0b10#2 →
    (∃ f, decCoreWith prf u k0 k1 = .ok f ∧ ver f = 7#4 ∧ variant f = 0b10#2 ∧ randA f = randA u ∧ randB f = randB u ∧
      ts f = ts u ^^^ mask48With prf k0 k1 (nonce u)) ∧
    (ver u = 7#4 → ∃ f, encCoreWith prf u k0 k1 = .ok f ∧ ver f = 4#4 ∧ variant f = 0b10#2 ∧ randA f = randA u ∧
      randB f = randB u ∧ ts f = ts u ^^^ mask48With prf k0 k1 (nonce u))

/-- R131: encoding a decoded value gives it back with version 4, for every MASK_PRF and key. -/
def Obligations.ReverseRoundTrip : Prop :=
  ∀ (prf : Prf) (f : Uuid) (k0 k1 : Word), variant f = 0b10#2 →
    ∃ u, decCoreWith prf f k0 k1 = .ok u ∧ encCoreWith prf u k0 k1 = .ok (setVer f 4#4) ∧
      (ver f = 4#4 → encCoreWith prf u k0 k1 = .ok f)

/-- R132: enc_core and dec_core, when they succeed, are XOR-combine and version rewrite; and ENCB equals, on success, the
sequence MASK with NIN the nonce, XORTS, SETVER with VIN 4; DECB with VIN 7. -/
def Obligations.SharedPrimitiveSequence : Prop :=
  (∀ (u r : Uuid) (k0 k1 : Word),
    (encCore u k0 k1 = .ok r → r = setVer (xorTs u (mask48 k0 k1 (nonce u))) 4#4) ∧
    (decCore u k0 k1 = .ok r → r = setVer (xorTs u (mask48 k0 k1 (nonce u))) 7#4)) ∧
  ∀ (s d : State) (u : Uuid) (v : Nibble) (i : Instr),
    s.uin = some u → ((i = .encb ∧ v = 4#4) ∨ (i = .decb ∧ v = 7#4)) →
    exec i s = .next d → statusErr d.status = 0#3 →
    ∃ a b c, exec .mask { s with nin := some (nonce u) } = .next a ∧
      exec .xorts { a with min := a.mout } = .next b ∧
      exec .setver { b with uin := b.uout, vin := some v } = .next c ∧
      c.uout = d.uout ∧ c.status = d.status

/-- R154: with a key stored, ENC and DEC give what ENCF and DECF give with that key in KIN0 and KIN1. -/
def Obligations.StoredKeyAgreesWithExplicit : Prop :=
  ∀ (s : State) (i j : Instr), s.kvalid = true → ((i = .enc ∧ j = .encf) ∨ (i = .dec ∧ j = .decf)) →
    (∀ t, exec i s = .next t → ∃ t', exec j { s with kin0 := some s.k0, kin1 := some s.k1 } = .next t' ∧
      t'.status = t.status ∧ t'.tout = t.tout) ∧
    (∀ f, exec i s = .fault f → exec j { s with kin0 := some s.k0, kin1 := some s.k1 } = .fault f)

/-! ## Runs and invariants -/

/-- R25, R29: an operand port read back gives the value last written to it, whatever comes between that is neither a reset
nor a write of that port. The list of events and what the hosts have seen are the model's own (log 1, log 5). -/
def Obligations.OperandPortReadsBackLastWrite : Prop :=
  ∀ (es rest : List Issued) (s t : State) (h h' : Nat) (v : OperandVal),
    (∀ e ∈ es, e.event ≠ .reset ∧ ∀ x, portOf x = portOf v → e.event ≠ .write x) →
    s.pending = { host := h, event := .write v } :: (es ++ { host := h', event := .read (portOf v) } :: rest) →
    Host.Core.run core (es.length + 2) s = .next t →
    ∃ seen, t.observed = seen ++ [.port (.operand v)]

/-- R155: after any number of events none of which is a reset or a SETKEYS word, KEYREG holds exactly the key it held. -/
def Obligations.StoredKeyLastsUntilReplaced : Prop :=
  ∀ (es rest : List Issued) (s t : State), (∀ e ∈ es, KeepsKey e) → s.pending = es ++ rest →
    Host.Core.run core es.length s = .next t → SameKey s t ∧ t.pending = rest

/-- R22, R200: K0 and K1 cannot be observed while KVALID is 0: two states that differ only in them take the same steps and
the hosts see the same, and a SETKEYS that succeeds leaves no difference at all. -/
def Obligations.UnsetKeyIsUnobservable : Prop :=
  ∀ s s' : State, s.kvalid = false → SameButKeyWords s s' →
    (∀ t, step s = .next t → ∃ t', step s' = .next t' ∧ SameButKeyWords t t' ∧ (t.kvalid = true → t' = t)) ∧
    (∀ f, step s = .fault f → step s' = .fault f)

/-- R23: every step keeps STATUS legal, and every STATUS value the hosts see; and every event still to come remains one of
the HOSTS' (R8, R183). The events to come, their host numbers and what was seen are the model's own (logs 1, 5 and 9). -/
def Obligations.StepKeepsStatusLegal : Prop :=
  ∀ s t : State, s.StatusInv → s.HostsInv → step s = .next t → t.StatusInv ∧ t.HostsInv

/-- R26, R82: every step keeps TOUT canonical lower-case text once it is written. -/
def Obligations.StepKeepsToutCanonical : Prop :=
  ∀ s t : State, s.TextInv → step s = .next t → t.TextInv

/-- The reset state meets the invariants: STATUS is legal and TOUT is unwritten (R23, R200). That no event is pending and
nothing has been seen there, on which HostsInv and the observed part of StatusInv rest, is the model's own choice (logs 1, 5
and 9). -/
def Obligations.ResetMeetsInvariants : Prop :=
  State.reset.StatusInv ∧ State.reset.TextInv ∧ State.reset.HostsInv

/-! ## Host programs -/

/-- R28: the text a host passes for a string parses if and only if the string is canonical text; of another length than 36
its TLEN alone makes it fail, whatever TIN holds. Two clauses are the model's choice: that no string of another length is
written to TIN (R28 says only that the host need not write it, log 15), and that characters are code points (log 17). -/
def Obligations.TransportAcceptsExactlyCanonicalStrings : Prop :=
  ∀ cs : List Char,
    ((∃ t, textOfChars cs = some t ∧ (parseText (textLength cs.length) t).isSome) ↔ IsCanonicalString cs) ∧
    (cs.length ≠ 36 → textOfChars cs = none ∧ ∀ t, parseText (textLength cs.length) t = none)

/-- R68: the expansions of the pseudo-instructions whose operands are numbers, LDKEY, SETK and SETK0, as events. A key word
that is no 64-bit number gives no events, since the host must refuse it (R150): that the line then means nothing is the
model's choice (log 15). -/
def Obligations.PseudoInstructionsExpand : Prop :=
  ∀ k0 k1 : Nat,
    (k0 < 2 ^ 64 → k1 < 2 ^ 64 →
      lineEvents (.ldkey k0 k1) = some [.write (.kin0 (BitVec.ofNat 64 k0)), .write (.kin1 (BitVec.ofNat 64 k1)),
        .write (.kpres 0b11#2)] ∧
      lineEvents (.setk k0 k1) = some [.write (.kin0 (BitVec.ofNat 64 k0)), .write (.kin1 (BitVec.ofNat 64 k1)),
        .write (.kpres 0b11#2), .command 0x0B#8]) ∧
    (k0 < 2 ^ 64 →
      lineEvents (.setk0 k0) = some [.write (.kin0 (BitVec.ofNat 64 k0)), .write (.kpres 0b01#2), .command 0x0B#8]) ∧
    (2 ^ 64 ≤ k0 ∨ 2 ^ 64 ≤ k1 → lineEvents (.ldkey k0 k1) = none ∧ lineEvents (.setk k0 k1) = none) ∧
    (2 ^ 64 ≤ k0 → lineEvents (.setk0 k0) = none)
end

