-- ==== Sys2Proof/Laws/State.lean ====
section
/-!
SUPPORT. What each update of the state does to each field: one lemma per field per update, so that no later proof unfolds
a record update.
-/

namespace Sys2Proof.Machine

variable (s : State)

section setStatus
@[simp] theorem State.setStatus_k0 (v : BitVec 8) : (s.setStatus v).k0 = s.k0 := rfl
@[simp] theorem State.setStatus_k1 (v : BitVec 8) : (s.setStatus v).k1 = s.k1 := rfl
@[simp] theorem State.setStatus_kvalid (v : BitVec 8) : (s.setStatus v).kvalid = s.kvalid := rfl
@[simp] theorem State.setStatus_status (v : BitVec 8) : (s.setStatus v).status = v := rfl
@[simp] theorem State.setStatus_tlen (v : BitVec 8) : (s.setStatus v).tlen = s.tlen := rfl
@[simp] theorem State.setStatus_tin (v : BitVec 8) : (s.setStatus v).tin = s.tin := rfl
@[simp] theorem State.setStatus_uin (v : BitVec 8) : (s.setStatus v).uin = s.uin := rfl
@[simp] theorem State.setStatus_kin0 (v : BitVec 8) : (s.setStatus v).kin0 = s.kin0 := rfl
@[simp] theorem State.setStatus_kin1 (v : BitVec 8) : (s.setStatus v).kin1 = s.kin1 := rfl
@[simp] theorem State.setStatus_kpres (v : BitVec 8) : (s.setStatus v).kpres = s.kpres := rfl
@[simp] theorem State.setStatus_nin (v : BitVec 8) : (s.setStatus v).nin = s.nin := rfl
@[simp] theorem State.setStatus_min (v : BitVec 8) : (s.setStatus v).min = s.min := rfl
@[simp] theorem State.setStatus_vin (v : BitVec 8) : (s.setStatus v).vin = s.vin := rfl
@[simp] theorem State.setStatus_tout (v : BitVec 8) : (s.setStatus v).tout = s.tout := rfl
@[simp] theorem State.setStatus_uout (v : BitVec 8) : (s.setStatus v).uout = s.uout := rfl
@[simp] theorem State.setStatus_mout (v : BitVec 8) : (s.setStatus v).mout = s.mout := rfl
@[simp] theorem State.setStatus_pending (v : BitVec 8) : (s.setStatus v).pending = s.pending := rfl
@[simp] theorem State.setStatus_observed (v : BitVec 8) : (s.setStatus v).observed = s.observed := rfl
@[simp] theorem State.setStatus_resetCount (v : BitVec 8) : (s.setStatus v).resetCount = s.resetCount := rfl
end setStatus

section writeUout
@[simp] theorem State.writeUout_k0 (v : Uuid) : (s.writeUout v).k0 = s.k0 := rfl
@[simp] theorem State.writeUout_k1 (v : Uuid) : (s.writeUout v).k1 = s.k1 := rfl
@[simp] theorem State.writeUout_kvalid (v : Uuid) : (s.writeUout v).kvalid = s.kvalid := rfl
@[simp] theorem State.writeUout_status (v : Uuid) : (s.writeUout v).status = s.status := rfl
@[simp] theorem State.writeUout_tlen (v : Uuid) : (s.writeUout v).tlen = s.tlen := rfl
@[simp] theorem State.writeUout_tin (v : Uuid) : (s.writeUout v).tin = s.tin := rfl
@[simp] theorem State.writeUout_uin (v : Uuid) : (s.writeUout v).uin = s.uin := rfl
@[simp] theorem State.writeUout_kin0 (v : Uuid) : (s.writeUout v).kin0 = s.kin0 := rfl
@[simp] theorem State.writeUout_kin1 (v : Uuid) : (s.writeUout v).kin1 = s.kin1 := rfl
@[simp] theorem State.writeUout_kpres (v : Uuid) : (s.writeUout v).kpres = s.kpres := rfl
@[simp] theorem State.writeUout_nin (v : Uuid) : (s.writeUout v).nin = s.nin := rfl
@[simp] theorem State.writeUout_min (v : Uuid) : (s.writeUout v).min = s.min := rfl
@[simp] theorem State.writeUout_vin (v : Uuid) : (s.writeUout v).vin = s.vin := rfl
@[simp] theorem State.writeUout_tout (v : Uuid) : (s.writeUout v).tout = s.tout := rfl
@[simp] theorem State.writeUout_uout (v : Uuid) : (s.writeUout v).uout = some v := rfl
@[simp] theorem State.writeUout_mout (v : Uuid) : (s.writeUout v).mout = s.mout := rfl
@[simp] theorem State.writeUout_pending (v : Uuid) : (s.writeUout v).pending = s.pending := rfl
@[simp] theorem State.writeUout_observed (v : Uuid) : (s.writeUout v).observed = s.observed := rfl
@[simp] theorem State.writeUout_resetCount (v : Uuid) : (s.writeUout v).resetCount = s.resetCount := rfl
end writeUout

section writeTout
@[simp] theorem State.writeTout_k0 (v : Text) : (s.writeTout v).k0 = s.k0 := rfl
@[simp] theorem State.writeTout_k1 (v : Text) : (s.writeTout v).k1 = s.k1 := rfl
@[simp] theorem State.writeTout_kvalid (v : Text) : (s.writeTout v).kvalid = s.kvalid := rfl
@[simp] theorem State.writeTout_status (v : Text) : (s.writeTout v).status = s.status := rfl
@[simp] theorem State.writeTout_tlen (v : Text) : (s.writeTout v).tlen = s.tlen := rfl
@[simp] theorem State.writeTout_tin (v : Text) : (s.writeTout v).tin = s.tin := rfl
@[simp] theorem State.writeTout_uin (v : Text) : (s.writeTout v).uin = s.uin := rfl
@[simp] theorem State.writeTout_kin0 (v : Text) : (s.writeTout v).kin0 = s.kin0 := rfl
@[simp] theorem State.writeTout_kin1 (v : Text) : (s.writeTout v).kin1 = s.kin1 := rfl
@[simp] theorem State.writeTout_kpres (v : Text) : (s.writeTout v).kpres = s.kpres := rfl
@[simp] theorem State.writeTout_nin (v : Text) : (s.writeTout v).nin = s.nin := rfl
@[simp] theorem State.writeTout_min (v : Text) : (s.writeTout v).min = s.min := rfl
@[simp] theorem State.writeTout_vin (v : Text) : (s.writeTout v).vin = s.vin := rfl
@[simp] theorem State.writeTout_tout (v : Text) : (s.writeTout v).tout = some v := rfl
@[simp] theorem State.writeTout_uout (v : Text) : (s.writeTout v).uout = s.uout := rfl
@[simp] theorem State.writeTout_mout (v : Text) : (s.writeTout v).mout = s.mout := rfl
@[simp] theorem State.writeTout_pending (v : Text) : (s.writeTout v).pending = s.pending := rfl
@[simp] theorem State.writeTout_observed (v : Text) : (s.writeTout v).observed = s.observed := rfl
@[simp] theorem State.writeTout_resetCount (v : Text) : (s.writeTout v).resetCount = s.resetCount := rfl
end writeTout

section writeMout
@[simp] theorem State.writeMout_k0 (v : Mask) : (s.writeMout v).k0 = s.k0 := rfl
@[simp] theorem State.writeMout_k1 (v : Mask) : (s.writeMout v).k1 = s.k1 := rfl
@[simp] theorem State.writeMout_kvalid (v : Mask) : (s.writeMout v).kvalid = s.kvalid := rfl
@[simp] theorem State.writeMout_status (v : Mask) : (s.writeMout v).status = s.status := rfl
@[simp] theorem State.writeMout_tlen (v : Mask) : (s.writeMout v).tlen = s.tlen := rfl
@[simp] theorem State.writeMout_tin (v : Mask) : (s.writeMout v).tin = s.tin := rfl
@[simp] theorem State.writeMout_uin (v : Mask) : (s.writeMout v).uin = s.uin := rfl
@[simp] theorem State.writeMout_kin0 (v : Mask) : (s.writeMout v).kin0 = s.kin0 := rfl
@[simp] theorem State.writeMout_kin1 (v : Mask) : (s.writeMout v).kin1 = s.kin1 := rfl
@[simp] theorem State.writeMout_kpres (v : Mask) : (s.writeMout v).kpres = s.kpres := rfl
@[simp] theorem State.writeMout_nin (v : Mask) : (s.writeMout v).nin = s.nin := rfl
@[simp] theorem State.writeMout_min (v : Mask) : (s.writeMout v).min = s.min := rfl
@[simp] theorem State.writeMout_vin (v : Mask) : (s.writeMout v).vin = s.vin := rfl
@[simp] theorem State.writeMout_tout (v : Mask) : (s.writeMout v).tout = s.tout := rfl
@[simp] theorem State.writeMout_uout (v : Mask) : (s.writeMout v).uout = s.uout := rfl
@[simp] theorem State.writeMout_mout (v : Mask) : (s.writeMout v).mout = some v := rfl
@[simp] theorem State.writeMout_pending (v : Mask) : (s.writeMout v).pending = s.pending := rfl
@[simp] theorem State.writeMout_observed (v : Mask) : (s.writeMout v).observed = s.observed := rfl
@[simp] theorem State.writeMout_resetCount (v : Mask) : (s.writeMout v).resetCount = s.resetCount := rfl
end writeMout

section storeKey
@[simp] theorem State.storeKey_k0 (a b : Word) : (s.storeKey a b).k0 = a := rfl
@[simp] theorem State.storeKey_k1 (a b : Word) : (s.storeKey a b).k1 = b := rfl
@[simp] theorem State.storeKey_kvalid (a b : Word) : (s.storeKey a b).kvalid = true := rfl
@[simp] theorem State.storeKey_status (a b : Word) : (s.storeKey a b).status = s.status := rfl
@[simp] theorem State.storeKey_tlen (a b : Word) : (s.storeKey a b).tlen = s.tlen := rfl
@[simp] theorem State.storeKey_tin (a b : Word) : (s.storeKey a b).tin = s.tin := rfl
@[simp] theorem State.storeKey_uin (a b : Word) : (s.storeKey a b).uin = s.uin := rfl
@[simp] theorem State.storeKey_kin0 (a b : Word) : (s.storeKey a b).kin0 = s.kin0 := rfl
@[simp] theorem State.storeKey_kin1 (a b : Word) : (s.storeKey a b).kin1 = s.kin1 := rfl
@[simp] theorem State.storeKey_kpres (a b : Word) : (s.storeKey a b).kpres = s.kpres := rfl
@[simp] theorem State.storeKey_nin (a b : Word) : (s.storeKey a b).nin = s.nin := rfl
@[simp] theorem State.storeKey_min (a b : Word) : (s.storeKey a b).min = s.min := rfl
@[simp] theorem State.storeKey_vin (a b : Word) : (s.storeKey a b).vin = s.vin := rfl
@[simp] theorem State.storeKey_tout (a b : Word) : (s.storeKey a b).tout = s.tout := rfl
@[simp] theorem State.storeKey_uout (a b : Word) : (s.storeKey a b).uout = s.uout := rfl
@[simp] theorem State.storeKey_mout (a b : Word) : (s.storeKey a b).mout = s.mout := rfl
@[simp] theorem State.storeKey_pending (a b : Word) : (s.storeKey a b).pending = s.pending := rfl
@[simp] theorem State.storeKey_observed (a b : Word) : (s.storeKey a b).observed = s.observed := rfl
@[simp] theorem State.storeKey_resetCount (a b : Word) : (s.storeKey a b).resetCount = s.resetCount := rfl
end storeKey

section observe
@[simp] theorem observe_k0 (o : Observation) : (observe o s).k0 = s.k0 := rfl
@[simp] theorem observe_k1 (o : Observation) : (observe o s).k1 = s.k1 := rfl
@[simp] theorem observe_kvalid (o : Observation) : (observe o s).kvalid = s.kvalid := rfl
@[simp] theorem observe_status (o : Observation) : (observe o s).status = s.status := rfl
@[simp] theorem observe_tlen (o : Observation) : (observe o s).tlen = s.tlen := rfl
@[simp] theorem observe_tin (o : Observation) : (observe o s).tin = s.tin := rfl
@[simp] theorem observe_uin (o : Observation) : (observe o s).uin = s.uin := rfl
@[simp] theorem observe_kin0 (o : Observation) : (observe o s).kin0 = s.kin0 := rfl
@[simp] theorem observe_kin1 (o : Observation) : (observe o s).kin1 = s.kin1 := rfl
@[simp] theorem observe_kpres (o : Observation) : (observe o s).kpres = s.kpres := rfl
@[simp] theorem observe_nin (o : Observation) : (observe o s).nin = s.nin := rfl
@[simp] theorem observe_min (o : Observation) : (observe o s).min = s.min := rfl
@[simp] theorem observe_vin (o : Observation) : (observe o s).vin = s.vin := rfl
@[simp] theorem observe_tout (o : Observation) : (observe o s).tout = s.tout := rfl
@[simp] theorem observe_uout (o : Observation) : (observe o s).uout = s.uout := rfl
@[simp] theorem observe_mout (o : Observation) : (observe o s).mout = s.mout := rfl
@[simp] theorem observe_pending (o : Observation) : (observe o s).pending = s.pending := rfl
@[simp] theorem observe_observed (o : Observation) : (observe o s).observed = s.observed ++ [o] := rfl
@[simp] theorem observe_resetCount (o : Observation) : (observe o s).resetCount = s.resetCount := rfl
end observe

section resetBlock
@[simp] theorem resetBlock_k0 : (resetBlock s).k0 = Config.k0AtReset (s.resetCount + 1) := rfl
@[simp] theorem resetBlock_k1 : (resetBlock s).k1 = Config.k1AtReset (s.resetCount + 1) := rfl
@[simp] theorem resetBlock_kvalid : (resetBlock s).kvalid = false := rfl
@[simp] theorem resetBlock_status : (resetBlock s).status = 0x00#8 := rfl
@[simp] theorem resetBlock_tlen : (resetBlock s).tlen = none := rfl
@[simp] theorem resetBlock_tin : (resetBlock s).tin = none := rfl
@[simp] theorem resetBlock_uin : (resetBlock s).uin = none := rfl
@[simp] theorem resetBlock_kin0 : (resetBlock s).kin0 = none := rfl
@[simp] theorem resetBlock_kin1 : (resetBlock s).kin1 = none := rfl
@[simp] theorem resetBlock_kpres : (resetBlock s).kpres = none := rfl
@[simp] theorem resetBlock_nin : (resetBlock s).nin = none := rfl
@[simp] theorem resetBlock_min : (resetBlock s).min = none := rfl
@[simp] theorem resetBlock_vin : (resetBlock s).vin = none := rfl
@[simp] theorem resetBlock_tout : (resetBlock s).tout = none := rfl
@[simp] theorem resetBlock_uout : (resetBlock s).uout = none := rfl
@[simp] theorem resetBlock_mout : (resetBlock s).mout = none := rfl
@[simp] theorem resetBlock_pending : (resetBlock s).pending = s.pending := rfl
@[simp] theorem resetBlock_observed : (resetBlock s).observed = s.observed := rfl
@[simp] theorem resetBlock_resetCount : (resetBlock s).resetCount = s.resetCount + 1 := rfl
end resetBlock

section writeOperand

@[simp] theorem writeOperand_k0 (v : OperandVal) : (writeOperand v s).k0 = s.k0 := by cases v <;> rfl
@[simp] theorem writeOperand_k1 (v : OperandVal) : (writeOperand v s).k1 = s.k1 := by cases v <;> rfl
@[simp] theorem writeOperand_kvalid (v : OperandVal) : (writeOperand v s).kvalid = s.kvalid := by cases v <;> rfl
@[simp] theorem writeOperand_status (v : OperandVal) : (writeOperand v s).status = s.status := by cases v <;> rfl
@[simp] theorem writeOperand_tout (v : OperandVal) : (writeOperand v s).tout = s.tout := by cases v <;> rfl
@[simp] theorem writeOperand_uout (v : OperandVal) : (writeOperand v s).uout = s.uout := by cases v <;> rfl
@[simp] theorem writeOperand_mout (v : OperandVal) : (writeOperand v s).mout = s.mout := by cases v <;> rfl
@[simp] theorem writeOperand_pending (v : OperandVal) : (writeOperand v s).pending = s.pending := by cases v <;> rfl
@[simp] theorem writeOperand_observed (v : OperandVal) : (writeOperand v s).observed = s.observed := by cases v <;> rfl
@[simp] theorem writeOperand_resetCount (v : OperandVal) : (writeOperand v s).resetCount = s.resetCount := by cases v <;> rfl

end writeOperand

end Sys2Proof.Machine
end

