-- ==== Sys2Proof/Laws/Ops.lean ====
section
/-!
SUPPORT. What each shared operation can do, said once: the STATUS words, the reading of operands, the ends of a command,
and the two shared transform paths.
-/

namespace Sys2Proof.Machine

/-! ## STATUS words -/

@[simp] theorem statusWord_success : statusWord .noError false = 0x00#8 := rfl
@[simp] theorem statusWord_success_true : statusWord .noError true = 0x08#8 := rfl
@[simp] theorem statusWord_invalidFormat : statusWord .invalidFormat false = 0x01#8 := rfl
@[simp] theorem statusWord_invalidUuidv7 : statusWord .invalidUuidv7 false = 0x02#8 := rfl
@[simp] theorem statusWord_invalidUuid : statusWord .invalidUuid false = 0x03#8 := rfl
@[simp] theorem statusWord_missingKey : statusWord .missingKeyArgument false = 0x04#8 := rfl
@[simp] theorem statusWord_keysNotSet : statusWord .keysNotSet false = 0x05#8 := rfl
@[simp] theorem statusWord_illegal : statusWord .illegalCommand false = 0x06#8 := rfl

@[simp] theorem statusErr_success : statusErr 0x00#8 = 0#3 := rfl
@[simp] theorem statusErr_success_true : statusErr 0x08#8 = 0#3 := rfl

theorem statusErr_statusWord (e : ErrCode) (b : Bool) : statusErr (statusWord e b) = errNumber e := by
  cases e <;> cases b <;> decide

theorem statusBool_statusWord (e : ErrCode) (b : Bool) : statusBool (statusWord e b) = b := by
  cases e <;> cases b <;> decide

theorem statusReserved_statusWord (e : ErrCode) (b : Bool) : statusReserved (statusWord e b) = 0#4 := by
  cases e <;> cases b <;> decide

theorem errNumber_eq_zero (e : ErrCode) : errNumber e = 0#3 ↔ e = .noError := by cases e <;> decide

theorem errNumber_ne_seven (e : ErrCode) : errNumber e ≠ 7#3 := by cases e <;> decide

/-- STATUS words as finish and raise Error write them are legal (R23). -/
theorem legalStatus_error (e : ErrCode) : LegalStatus (statusWord e false) := by
  refine ⟨statusReserved_statusWord e false, ?_, fun _ => statusBool_statusWord e false⟩
  rw [statusErr_statusWord]; exact errNumber_ne_seven e

theorem legalStatus_finish (b : Bool) : LegalStatus (statusWord .noError b) := by
  refine ⟨statusReserved_statusWord _ b, ?_, fun h => absurd (statusErr_statusWord .noError b) h⟩
  rw [statusErr_statusWord]; exact errNumber_ne_seven _

/-! ## The ends of a command -/

theorem finish_next {b : Bool} {s t : State} :
    finish b s = .next t ↔ t = s.setStatus (statusWord .noError b) := by
  simp only [finish, Host.Outcome.next.injEq]; exact eq_comm

theorem raiseError_next {e : ErrCode} {s t : State} :
    raiseError e s = .next t ↔ t = s.setStatus (statusWord e false) := by
  simp only [raiseError, Host.Outcome.next.injEq]; exact eq_comm

/-! ## Operands -/

@[simp] theorem withOperand_some {α : Type} (p : Port) (a : α) (k : α → Result) : withOperand p (some a) k = k a := rfl

@[simp] theorem withOperand_none {α : Type} (p : Port) (k : α → Result) :
    withOperand p none k = .fault (.unwrittenPort p) := rfl

theorem withOperand_next {α : Type} {p : Port} {v : Option α} {k : α → Result} {t : State} :
    withOperand p v k = .next t ↔ ∃ a, v = some a ∧ k a = .next t := by
  cases v <;> simp

/-- The text operand, once readable, is what the command goes on with. -/
theorem withText_of_gives {s : State} {r : Option Uuid} (h : TextGives s r) (k : Option Uuid → Result) :
    withText s k = k r := by
  obtain ⟨n, hn, hne, rfl⟩ | ⟨t, hn, ht, rfl⟩ := h
  · simp [withText, hn, hne]
  · simp [withText, hn, ht]

theorem withText_next {s t : State} {k : Option Uuid → Result} (h : withText s k = .next t) :
    ∃ r, TextGives s r ∧ k r = .next t := by
  obtain ⟨n, hn, hk⟩ := withOperand_next.mp h
  split at hk
  · next h36 =>
    obtain ⟨x, hx, hk⟩ := withOperand_next.mp hk
    exact ⟨_, .inr ⟨x, h36 ▸ hn, hx, by rw [h36]⟩, hk⟩
  · next h36 => exact ⟨none, .inl ⟨n, hn, h36, rfl⟩, hk⟩

/-- The text operand is the same whoever reads it: TextGives names one value. -/
theorem textGives_unique {s : State} {r r' : Option Uuid} (h : TextGives s r) (h' : TextGives s r') : r = r' := by
  obtain ⟨n, hn, hne, rfl⟩ | ⟨t, hn, ht, rfl⟩ := h <;> obtain ⟨m, hm, hme, rfl⟩ | ⟨x, hm, hx, rfl⟩ := h' <;> simp_all

theorem withExplicitKey_next {s t : State} {k : Word → Word → Result} :
    withExplicitKey s k = .next t ↔ ∃ a b, s.kin0 = some a ∧ s.kin1 = some b ∧ k a b = .next t := by
  simp only [withExplicitKey, withOperand_next]
  constructor
  · rintro ⟨a, ha, b, hb, h⟩; exact ⟨a, b, ha, hb, h⟩
  · rintro ⟨a, b, ha, hb, h⟩; exact ⟨a, ha, b, hb, h⟩

@[simp] theorem withStoredKey_eq (s : State) (k : Word → Word → Result) : withStoredKey s k = k s.k0 s.k1 := rfl

/-! ## The shared transform paths -/

section Transform

variable {check : Uuid → Option ErrCode} {value : Word → Word → Uuid → Uuid} {s t : State}

/-- Everything the binary path can do when it completes. -/
theorem runBinary_next (h : runBinary check value s = .next t) :
    ∃ u, s.uin = some u ∧
      ((∃ e, check u = some e ∧ t = s.setStatus (statusWord e false)) ∨
        (check u = none ∧ ∃ a b, s.kin0 = some a ∧ s.kin1 = some b ∧
          t = (s.writeUout (value a b u)).setStatus 0x00#8)) := by
  obtain ⟨u, hu, h⟩ := withOperand_next.mp h
  refine ⟨u, hu, ?_⟩
  split at h
  · next e he => exact .inl ⟨e, he, raiseError_next.mp h⟩
  · next hc =>
    obtain ⟨a, b, ha, hb, h⟩ := withExplicitKey_next.mp h
    exact .inr ⟨hc, a, b, ha, hb, finish_next.mp h⟩

/-- Everything the text path can do when it completes; the key is whatever key gives its continuation. -/
theorem runText_next {key : (Word → Word → Result) → Result} (h : runText check value key s = .next t) :
    ∃ r, TextGives s r ∧
      ((r = none ∧ t = s.setStatus 0x01#8) ∨
        (∃ u e, r = some u ∧ check u = some e ∧ t = s.setStatus (statusWord e false)) ∨
        (∃ u, r = some u ∧ check u = none ∧
          key (fun a b => finish false (s.writeTout (serializeText (value a b u)))) = .next t)) := by
  obtain ⟨r, hr, h⟩ := withText_next h
  refine ⟨r, hr, ?_⟩
  cases r with
  | none => exact .inl ⟨rfl, raiseError_next.mp h⟩
  | some u =>
    simp only at h
    split at h
    · next e he => exact .inr (.inl ⟨u, e, rfl, he, raiseError_next.mp h⟩)
    · next hc => exact .inr (.inr ⟨u, rfl, hc, h⟩)

theorem runText_explicit_next (h : runText check value (withExplicitKey s) s = .next t) :
    ∃ r, TextGives s r ∧
      ((r = none ∧ t = s.setStatus 0x01#8) ∨
        (∃ u e, r = some u ∧ check u = some e ∧ t = s.setStatus (statusWord e false)) ∨
        (∃ u a b, r = some u ∧ check u = none ∧ s.kin0 = some a ∧ s.kin1 = some b ∧
          t = (s.writeTout (serializeText (value a b u))).setStatus 0x00#8)) := by
  obtain ⟨r, hr, h | h | ⟨u, hu, hc, h⟩⟩ := runText_next h
  · exact ⟨r, hr, .inl h⟩
  · exact ⟨r, hr, .inr (.inl h)⟩
  · obtain ⟨a, b, ha, hb, h⟩ := withExplicitKey_next.mp h
    exact ⟨r, hr, .inr (.inr ⟨u, a, b, hu, hc, ha, hb, finish_next.mp h⟩)⟩

theorem runText_stored_next (h : runText check value (withStoredKey s) s = .next t) :
    ∃ r, TextGives s r ∧
      ((r = none ∧ t = s.setStatus 0x01#8) ∨
        (∃ u e, r = some u ∧ check u = some e ∧ t = s.setStatus (statusWord e false)) ∨
        (∃ u, r = some u ∧ check u = none ∧
          t = (s.writeTout (serializeText (value s.k0 s.k1 u))).setStatus 0x00#8)) := by
  obtain ⟨r, hr, h | h | ⟨u, hu, hc, h⟩⟩ := runText_next h
  · exact ⟨r, hr, .inl h⟩
  · exact ⟨r, hr, .inr (.inl h)⟩
  · exact ⟨r, hr, .inr (.inr ⟨u, hu, hc, finish_next.mp h⟩)⟩

section RunText

variable {key : (Word → Word → Result) → Result}

/-- The text path on text that does not parse. -/
theorem runText_of_bad (h : TextGives s none) : runText check value key s = raiseError .invalidFormat s :=
  withText_of_gives h _

/-- The text path on a value the check turns away; the key is not read. -/
theorem runText_of_error {u : Uuid} {e : ErrCode} (h : TextGives s (some u)) (he : check u = some e) :
    runText check value key s = raiseError e s := by
  unfold runText; rw [withText_of_gives h]; simp [he]

/-- The text path on a value the check accepts. -/
theorem runText_of_ok {u : Uuid} (h : TextGives s (some u)) (hc : check u = none) :
    runText check value key s = key fun a b => finish false (s.writeTout (serializeText (value a b u))) := by
  unfold runText; rw [withText_of_gives h]; simp [hc]

end RunText

theorem ifKeySet_next {k : Result} (h : ifKeySet s k = .next t) :
    (s.kvalid = true ∧ k = .next t) ∨ (s.kvalid = false ∧ t = s.setStatus 0x05#8) := by
  unfold ifKeySet at h
  split at h
  · next hv => exact .inl ⟨hv, h⟩
  · next hv => exact .inr ⟨by simpa using hv, raiseError_next.mp h⟩

end Transform

/-- The check of encode passes exactly on version 7 and variant 10b (R123). -/
theorem encCheck_eq_none {u : Uuid} : encCheck u = none ↔ IsV7 u := by
  unfold encCheck IsV7; split <;> grind

theorem encCheck_eq_some {u : Uuid} {e : ErrCode} : encCheck u = some e ↔ ¬ IsV7 u ∧ e = .invalidUuidv7 := by
  unfold encCheck IsV7; split <;> grind

/-- The check of decode passes exactly on variant 10b (R123). -/
theorem decCheck_eq_none {u : Uuid} : decCheck u = none ↔ variant u = 0b10#2 := by
  unfold decCheck; split <;> simp_all

theorem decCheck_eq_some {u : Uuid} {e : ErrCode} :
    decCheck u = some e ↔ variant u ≠ 0b10#2 ∧ e = .invalidUuid := by
  unfold decCheck; split <;> grind

end Sys2Proof.Machine
end

