-- ==== Sys2Proof/Laws/Exec.lean ====
section
/-!
SUPPORT. What a command, an event and a step can do: one inversion lemma each, from which invariants and frames follow
without unfolding a meaning again.
-/

namespace Sys2Proof.Machine

/-- Everything a command can do when it completes: it raises an error, or reports a boolean, or writes one result port, or
stores the key; STATUS is written in every case (R23, R26, R173). -/
theorem exec_next_cases {i : Instr} {s t : State} (h : exec i s = .next t) :
    (∃ e, e ≠ .noError ∧ t = s.setStatus (statusWord e false)) ∨
    (∃ b, i ∈ [.validate, .haskeys] ∧ t = s.setStatus (statusWord .noError b)) ∨
    (∃ v, i ∈ [.parse, .xorts, .setver, .encb, .decb] ∧ t = (s.writeUout v).setStatus 0x00#8) ∨
    (∃ v, i ∈ [.serialize, .encf, .decf, .enc, .dec] ∧ t = (s.writeTout (serializeText v)).setStatus 0x00#8) ∨
    (∃ v, i = .mask ∧ t = (s.writeMout v).setStatus 0x00#8) ∨
    (∃ a b, i = .setkeys ∧ s.kpres = some 0b11#2 ∧ s.kin0 = some a ∧ s.kin1 = some b ∧
      t = (s.storeKey a b).setStatus 0x08#8) := by
  have err : ∀ {e}, e ≠ ErrCode.noError → t = s.setStatus (statusWord e false) →
      ∃ e, e ≠ ErrCode.noError ∧ t = s.setStatus (statusWord e false) := fun {e} he ht => ⟨e, he, ht⟩
  have enc : ∀ {u e}, encCheck u = some e → e ≠ .noError := fun h => by simp [(encCheck_eq_some.mp h).2]
  have dec : ∀ {u e}, decCheck u = some e → e ≠ .noError := fun h => by simp [(decCheck_eq_some.mp h).2]
  cases i with
  | parse =>
    simp only [exec, execParse] at h
    obtain ⟨r, -, h⟩ := withText_next h
    cases r with
    | none => exact .inl (err (by simp) (raiseError_next.mp h))
    | some u => exact .inr (.inr (.inl ⟨u, by simp, finish_next.mp h⟩))
  | serialize =>
    obtain ⟨u, -, h⟩ := withOperand_next.mp h
    exact .inr (.inr (.inr (.inl ⟨u, by simp, finish_next.mp h⟩)))
  | validate =>
    simp only [exec, execValidate] at h
    obtain ⟨r, -, h⟩ := withText_next h
    exact .inr (.inl ⟨_, by simp, finish_next.mp h⟩)
  | mask =>
    obtain ⟨a, b, -, -, h⟩ := withExplicitKey_next.mp h
    obtain ⟨n, -, h⟩ := withOperand_next.mp h
    exact .inr (.inr (.inr (.inr (.inl ⟨_, rfl, finish_next.mp h⟩))))
  | xorts =>
    obtain ⟨u, -, h⟩ := withOperand_next.mp h
    obtain ⟨m, -, h⟩ := withOperand_next.mp h
    exact .inr (.inr (.inl ⟨_, by simp, finish_next.mp h⟩))
  | setver =>
    obtain ⟨u, -, h⟩ := withOperand_next.mp h
    obtain ⟨v, -, h⟩ := withOperand_next.mp h
    exact .inr (.inr (.inl ⟨_, by simp, finish_next.mp h⟩))
  | encb =>
    obtain ⟨u, -, ⟨e, he, h⟩ | ⟨-, a, b, -, -, h⟩⟩ := runBinary_next h
    · exact .inl (err (enc he) h)
    · exact .inr (.inr (.inl ⟨_, by simp, h⟩))
  | decb =>
    obtain ⟨u, -, ⟨e, he, h⟩ | ⟨-, a, b, -, -, h⟩⟩ := runBinary_next h
    · exact .inl (err (dec he) h)
    · exact .inr (.inr (.inl ⟨_, by simp, h⟩))
  | encf =>
    obtain ⟨r, -, ⟨-, h⟩ | ⟨u, e, -, he, h⟩ | ⟨u, a, b, -, -, -, -, h⟩⟩ := runText_explicit_next h
    · exact .inl (err (e := .invalidFormat) (by simp) h)
    · exact .inl (err (enc he) h)
    · exact .inr (.inr (.inr (.inl ⟨_, by simp, h⟩)))
  | decf =>
    obtain ⟨r, -, ⟨-, h⟩ | ⟨u, e, -, he, h⟩ | ⟨u, a, b, -, -, -, -, h⟩⟩ := runText_explicit_next h
    · exact .inl (err (e := .invalidFormat) (by simp) h)
    · exact .inl (err (dec he) h)
    · exact .inr (.inr (.inr (.inl ⟨_, by simp, h⟩)))
  | setkeys =>
    obtain ⟨p, hp, h⟩ := withOperand_next.mp h
    split at h
    · exact .inl (err (by simp) (raiseError_next.mp h))
    · next h3 =>
      obtain ⟨a, b, ha, hb, h⟩ := withExplicitKey_next.mp h
      refine .inr (.inr (.inr (.inr (.inr ⟨a, b, rfl, ?_, ha, hb, finish_next.mp h⟩))))
      simpa using (not_not.mp h3) ▸ hp
  | haskeys => exact .inr (.inl ⟨_, by simp, finish_next.mp h⟩)
  | enc =>
    obtain ⟨-, h⟩ | ⟨-, h⟩ := ifKeySet_next h
    · obtain ⟨r, -, ⟨-, h⟩ | ⟨u, e, -, he, h⟩ | ⟨u, -, -, h⟩⟩ := runText_stored_next h
      · exact .inl (err (e := .invalidFormat) (by simp) h)
      · exact .inl (err (enc he) h)
      · exact .inr (.inr (.inr (.inl ⟨_, by simp, h⟩)))
    · exact .inl (err (e := .keysNotSet) (by simp) h)
  | dec =>
    obtain ⟨-, h⟩ | ⟨-, h⟩ := ifKeySet_next h
    · obtain ⟨r, -, ⟨-, h⟩ | ⟨u, e, -, he, h⟩ | ⟨u, -, -, h⟩⟩ := runText_stored_next h
      · exact .inl (err (e := .invalidFormat) (by simp) h)
      · exact .inl (err (dec he) h)
      · exact .inr (.inr (.inr (.inl ⟨_, by simp, h⟩)))
    · exact .inl (err (e := .keysNotSet) (by simp) h)

/-- A command word completes as its command does, or as an illegal word. -/
theorem runCommand_next {w : Byte} {s t : State} (h : runCommand w s = .next t) :
    (∃ i, decode w = .ok i ∧ exec i s = .next t) ∨ (∃ r, decode w = .error r ∧ t = s.setStatus 0x06#8) := by
  unfold runCommand at h
  split at h
  · next i hi => exact .inl ⟨i, hi, h⟩
  · next r hr => exact .inr ⟨r, hr, raiseError_next.mp h⟩

theorem recordStatus_next {r : Result} {t : State} :
    recordStatus r = .next t ↔ ∃ u, r = .next u ∧ t = observe (.status u.status) u := by
  cases r <;> simp [recordStatus, eq_comm]

/-- Everything an event can do when it completes. -/
theorem execEvent_next {e : HostEvent} {s t : State} (h : execEvent e s = .next t) :
    (∃ v, e = .write v ∧ t = writeOperand v s) ∨
    (∃ p v, e = .read p ∧ portValue p s = some v ∧ t = observe (.port v) s) ∨
    (e = .readStatus ∧ t = observe (.statusRead s.status) s) ∨
    (∃ w u, e = .command w ∧ runCommand w s = .next u ∧ t = observe (.status u.status) u) ∨
    (e = .reset ∧ t = resetBlock s) := by
  cases e with
  | write v => exact .inl ⟨v, rfl, by simpa [execEvent, eq_comm] using h⟩
  | read p =>
    simp only [execEvent, hostRead] at h
    split at h
    · next v hv => exact .inr (.inl ⟨p, v, rfl, hv, by simpa [eq_comm] using h⟩)
    · cases h
  | readStatus => exact .inr (.inr (.inl ⟨rfl, by simpa [execEvent, eq_comm] using h⟩))
  | command w =>
    obtain ⟨u, hu, ht⟩ := recordStatus_next.mp h
    exact .inr (.inr (.inr (.inl ⟨w, u, rfl, hu, ht⟩)))
  | reset => exact .inr (.inr (.inr (.inr ⟨rfl, by simpa [execEvent, eq_comm] using h⟩)))

/-- A step does the next event, or nothing when there is none. -/
theorem step_cons {s : State} {e : Issued} {rest : List Issued} (h : s.pending = e :: rest) :
    step s = execEvent e.event { s with pending := rest } := by
  simp [step, takeEvent, h]

theorem step_nil {s : State} (h : s.pending = []) : step s = .next s := by simp [step, takeEvent, h]

end Sys2Proof.Machine
end

