-- ==== Sys2Proof/Laws/PerInstr.lean ====
section
/-!
SUPPORT. The family Encoding: each command is well-formed and its word is legal. One lemma per constructor.
-/

namespace Sys2Proof.Laws.Encoding

/-- The command is well-formed and its word is one of the 14 legal ones (R62, R64). -/
def Statement (i : Instr) : Prop := i.wf = true ∧ legalWord (encode i) = true

theorem parse : Statement .parse := ⟨rfl, rfl⟩
theorem serialize : Statement .serialize := ⟨rfl, rfl⟩
theorem validate : Statement .validate := ⟨rfl, rfl⟩
theorem mask : Statement .mask := ⟨rfl, rfl⟩
theorem xorts : Statement .xorts := ⟨rfl, rfl⟩
theorem setver : Statement .setver := ⟨rfl, rfl⟩
theorem encb : Statement .encb := ⟨rfl, rfl⟩
theorem decb : Statement .decb := ⟨rfl, rfl⟩
theorem encf : Statement .encf := ⟨rfl, rfl⟩
theorem decf : Statement .decf := ⟨rfl, rfl⟩
theorem setkeys : Statement .setkeys := ⟨rfl, rfl⟩
theorem haskeys : Statement .haskeys := ⟨rfl, rfl⟩
theorem enc : Statement .enc := ⟨rfl, rfl⟩
theorem dec : Statement .dec := ⟨rfl, rfl⟩

end Sys2Proof.Laws.Encoding
end

