-- ==== Sys2Proof/Laws/Text.lean ====
section
/-!
SUPPORT. The digits of canonical text (40_codec.md R80): what hexval and lowerhex do to one octet, and what the list forms
of parse_text and serialize_text do at one position.
-/

namespace Sys2Proof.Machine

theorem hexval_lowerhex (d : Nibble) : hexval (lowerhex d) = some d := by revert d; decide

/-- The digit written for the digit read is the same character in lower case (R84). -/
theorem lowerhex_of_hexval {c : Byte} {d : Nibble} (h : hexval c = some d) : lowerhex d = lowerByte c := by
  revert d c; decide

@[simp] theorem hexPos_length : hexPos.length = 32 := rfl

theorem getElem_serializeText (u : Uuid) (i : Fin 36) :
    (serializeText u)[i] = if i ∈ hyphenPos then hyphen else lowerhex (digitAt u (i.val - hyphensBefore i.val)) := by
  simp [serializeText]

/-- Digit position j of the list HEXPOS holds digit j (R80). -/
theorem hexPos_index : ∀ j : Fin 32, ∀ p, hexPos[j.val]? = some p → p ∉ hyphenPos ∧ p.val - hyphensBefore p.val = j.val := by
  decide

/-- Every position is a hyphen position or a digit position (R80). -/
theorem hyphen_or_hex : ∀ p : Fin 36, p ∈ hyphenPos ∨ ∃ j : Fin 32, hexPos[j.val]? = some p := by decide

/-! ## Digits and the 128-bit value -/

/-- One more digit moves the value up by one digit (R80). -/
theorem packDigits_append (ds : List Nibble) (d : Nibble) :
    packDigits (ds ++ [d]) = (packDigits ds <<< 4) ||| d.setWidth 128 := by
  simp [packDigits]

/-- Bit i of the value is bit i % 4 of the digit i / 4 places from the right (R80). -/
theorem getLsbD_packDigits (ds : List Nibble) (i : Nat) (hi : i < 128) :
    (packDigits ds).getLsbD i = ((ds.reverse[i / 4]?).getD 0#4).getLsbD (i % 4) := by
  induction ds using List.reverseRecOn generalizing i with
  | nil => simp [packDigits]
  | append_singleton ds d ih =>
    rw [packDigits_append, BitVec.getLsbD_or, BitVec.getLsbD_shiftLeft, BitVec.getLsbD_setWidth]
    by_cases h4 : i < 4
    · have hq : i / 4 = 0 := by omega
      have hr : i % 4 = i := by omega
      simp [hi, h4, hq, hr]
    · have hq : i / 4 = (i - 4) / 4 + 1 := by omega
      have hr : i % 4 = (i - 4) % 4 := by omega
      rw [ih (i - 4) (by omega), BitVec.getLsbD_of_ge d i (by omega)]
      simp [hi, h4, hq, hr]

/-- With 32 digits, digit j of the value is the j-th of them (R80). -/
theorem digitAt_packDigits (ds : List Nibble) (h : ds.length = 32) (j : Nat) (hj : j < 32) :
    ds[j]? = some (digitAt (packDigits ds) j) := by
  rw [List.getElem?_eq_getElem (by omega), Option.some_inj]
  apply BitVec.eq_of_getLsbD_eq
  intro i hi
  simp only [digitAt, BitVec.getLsbD_extractLsb', hi]
  rw [getLsbD_packDigits _ _ (by omega)]
  have h1 : (124 - 4 * j + i) / 4 = 31 - j := by omega
  have h2 : (124 - 4 * j + i) % 4 = i := by omega
  have h3 : ds.length - 1 - (31 - j) = j := by omega
  rw [h1, h2, List.getElem?_reverse (by omega), h3, List.getElem?_eq_getElem (by omega)]
  simp

/-- A value is known by its 32 digits. -/
theorem uuid_ext_digits {u v : Uuid} (h : ∀ j < 32, digitAt u j = digitAt v j) : u = v := by
  apply BitVec.eq_of_getLsbD_eq
  intro i hi
  have hj := congrArg (·.getLsbD (i % 4)) (h (31 - i / 4) (by omega))
  simp only [digitAt, BitVec.getLsbD_extractLsb'] at hj
  have hp : 124 - 4 * (31 - i / 4) + i % 4 = i := by omega
  simpa [hp, Nat.mod_lt] using hj

/-! ## Reading all the digits -/

/-- Reading succeeds when every position does, with what each position gives. -/
theorem mapM_eq_some_map {α β : Type} (f : α → Option β) (g : α → β) (l : List α) (h : ∀ a ∈ l, f a = some (g a)) :
    l.mapM f = some (l.map g) := by
  induction l with
  | nil => rfl
  | cons a l ih => simp [List.mapM_cons, h a, ih (fun b hb => h b (by simp [hb]))]

/-- What reading gives has one entry per position, each what that position gives. -/
theorem mapM_eq_some_get {α β : Type} (f : α → Option β) (l : List α) {r : List β} (h : l.mapM f = some r) :
    r.length = l.length ∧ ∀ (j : Nat) (a : α), l[j]? = some a → ∃ d, f a = some d ∧ r[j]? = some d := by
  induction l generalizing r with
  | nil => simp at h; subst h; simp
  | cons a l ih =>
    simp only [List.mapM_cons, Option.bind_eq_bind, Option.bind_eq_some_iff, Option.pure_def, Option.some.injEq] at h
    obtain ⟨d, hd, ds, hds, rfl⟩ := h
    obtain ⟨hl, hg⟩ := ih hds
    refine ⟨by simp [hl], fun j b hb => ?_⟩
    cases j with
    | zero => simp at hb; subst hb; exact ⟨d, hd, by simp⟩
    | succ j => simpa using hg j b (by simpa using hb)

/-- Reading succeeds exactly when every position does. -/
theorem mapM_isSome {α β : Type} (f : α → Option β) (l : List α) : (l.mapM f).isSome ↔ ∀ a ∈ l, (f a).isSome := by
  induction l with
  | nil => simp
  | cons a l ih =>
    cases h : f a <;> simp [List.mapM_cons, h]
    rw [← ih]; cases l.mapM f <;> simp

end Sys2Proof.Machine
end

