-- ==== Sys2Proof/Laws/Uuid.lean ====
section
/-!
SUPPORT. The UUID value bit by bit: the XOR-combine unit and the version rewriter (42_transform.md R120, R122), and the
fields they leave alone.
-/

namespace Sys2Proof.Machine

/-- xor_ts bit by bit: mask bit i meets bit 80 + i (R120). -/
theorem getLsbD_xorTs (u : Uuid) (m : Mask) (i : Nat) (hi : i < 128) :
    (xorTs u m).getLsbD i = (u.getLsbD i ^^ (decide (80 ≤ i) && m.getLsbD (i - 80))) := by
  simp only [xorTs, BitVec.getLsbD_xor, BitVec.getLsbD_shiftLeft, BitVec.getLsbD_setWidth]
  by_cases h : i < 80
  · simp [h, show ¬ 80 ≤ i by omega]
  · simp [hi, h, show 80 ≤ i by omega, show i - 80 < 128 by omega]

/-- set_ver bit by bit: bits 76..79 are the new version, the others stay (R122). -/
theorem getLsbD_setVer (u : Uuid) (v : Nibble) (i : Nat) (hi : i < 128) :
    (setVer u v).getLsbD i = if 76 ≤ i ∧ i < 80 then v.getLsbD (i - 76) else u.getLsbD i := by
  have hm : (~~~(0xf#128 <<< 76)).getLsbD i = !decide (76 ≤ i ∧ i < 80) := by revert hi; revert i; decide
  simp only [setVer, BitVec.getLsbD_or, BitVec.getLsbD_and, hm, BitVec.getLsbD_shiftLeft, BitVec.getLsbD_setWidth]
  by_cases h : 76 ≤ i ∧ i < 80
  · simp [hi, h, show ¬ i < 76 by omega, show i - 76 < 128 by omega]
  · by_cases h' : i < 76
    · simp [h, h']
    · simp [hi, h, h', BitVec.getLsbD_of_ge v (i - 76) (by omega)]

/-- The nonce is untouched by both units, so decode derives the mask encode used (R104, R128). -/
theorem nonce_setVer_xorTs (u : Uuid) (m : Mask) (v : Nibble) : nonce (setVer (xorTs u m) v) = nonce u := by
  unfold nonce randB
  congr 1
  apply BitVec.eq_of_getLsbD_eq
  intro i hi
  simp only [BitVec.getLsbD_extractLsb', hi, decide_true, Bool.true_and, Nat.zero_add]
  rw [getLsbD_setVer _ _ _ (by omega), getLsbD_xorTs _ _ _ (by omega)]
  simp [show ¬ 76 ≤ i by omega, show ¬ 80 ≤ i by omega]

end Sys2Proof.Machine
end

