-- ==== Sys2Proof/Machine/Assembler.lean ====
section
/-!
DEFINITION. The written form of host programs (30_encoding.md R67, R68): one item a line, a comment from `;` to the end of
the line, mnemonics and port names in either case. Where R67 does not say (white space, `;` and `,` inside quotes, a quote
inside a string, the base of a raw word, the case of words that are no mnemonics) the choice is log entry 16.
-/

namespace Sys2Proof.Machine

/-- White space inside a line. DESIGN CHOICE, log entry 16. -/
def isBlank (c : Char) : Bool := c == ' ' || c == '\t' || c == '\r'

/-- The line up to a `;` that stands outside quotes (R67; inside quotes: DESIGN CHOICE, log entry 16). -/
def dropComment (quoted : Bool) : List Char → List Char
  | [] => []
  | c :: cs =>
    if c == ';' && !quoted then []
    else c :: dropComment (if c == '"' then !quoted else quoted) cs

/-- The characters without white space at either end. -/
def trimBlanks (cs : List Char) : List Char := ((cs.dropWhile isBlank).reverse.dropWhile isBlank).reverse

/-- The parts between commas that stand outside quotes. -/
def splitCommas (quoted : Bool) (part : List Char) : List Char → List (List Char)
  | [] => [part.reverse]
  | c :: cs =>
    if c == ',' && !quoted then part.reverse :: splitCommas quoted [] cs
    else splitCommas (if c == '"' then !quoted else quoted) (c :: part) cs

/-- The lines of a text. -/
def splitLines (part : List Char) : List Char → List (List Char)
  | [] => [part.reverse]
  | c :: cs => if c == '\n' then part.reverse :: splitLines [] cs else splitLines (c :: part) cs

/-- The number that digits write in a base; none when there is no digit, or one outside the base. -/
def digitsValue (base : Nat) (cs : List Char) : Option Nat :=
  if cs.isEmpty then none
  else cs.foldl (fun acc c => acc.bind fun n => (hexval (charOctet c)).bind fun d =>
    if d.toNat < base then some (n * base + d.toNat) else none) (some 0)

/-- A numeric literal: hexadecimal after 0x, else decimal (R67). The prefix in lower case only, hex digits in either case,
any number of digits with leading zeros: DESIGN CHOICE, log entry 16. Also read for the key words of the pseudo-instructions
(R68) and for `.byte`. -/
def readNat (cs : List Char) : Option Nat :=
  match cs with
  | '0' :: 'x' :: ds => digitsValue 16 ds
  | ds => digitsValue 10 ds

/-- A quoted string, with no quote inside (R67). -/
def readString (cs : List Char) : Option (List Char) :=
  match cs with
  | '"' :: rest =>
    match rest.reverse with
    | '"' :: body => if body.contains '"' then none else some body.reverse
    | _ => none
  | _ => none

/-- The commands by mnemonic, in lower case (R62, R67). -/
def mnemonicTable : List (List Char × Instr) :=
  [("parse".toList, .parse), ("serialize".toList, .serialize), ("validate".toList, .validate), ("mask".toList, .mask),
    ("xorts".toList, .xorts), ("setver".toList, .setver), ("encb".toList, .encb), ("decb".toList, .decb),
    ("encf".toList, .encf), ("decf".toList, .decf), ("setkeys".toList, .setkeys), ("haskeys".toList, .haskeys),
    ("enc".toList, .enc), ("dec".toList, .dec)]

/-- The ports by name, in lower case (R25, R26, R67). -/
def portTable : List (List Char × Port) :=
  [("tlen".toList, .tlen), ("tin".toList, .tin), ("uin".toList, .uin), ("kin0".toList, .kin0), ("kin1".toList, .kin1),
    ("kpres".toList, .kpres), ("nin".toList, .nin), ("min".toList, .min), ("vin".toList, .vin),
    ("tout".toList, .tout), ("uout".toList, .uout), ("mout".toList, .mout)]

/-- A name in lower case, so that names are case-insensitive (R67). -/
def lowerName (cs : List Char) : List Char := cs.map Char.toLower

/-- The value part of a WR line: a number for any port, a string for TIN, u"..." for UIN (R67). -/
def readWrite (p : Port) (v : List Char) : Option Line :=
  match v with
  | '"' :: _ => if p = .tin then (readString v).map .wrString else none
  | 'u' :: rest => if p = .uin then (readString rest).map .wrUuid else none
  | _ => (readNat v).map (.wr p)

/-- A line from its first word, in lower case, and its comma-separated arguments (R67, R68). R67 writes a raw word as
`.byte 0x..` and says nothing of another base: a decimal literal is read too, as for WR. R67 makes mnemonics and port names
case-insensitive: WR, RD, STATUS, `.byte` and the pseudo-instructions are too. DESIGN CHOICE, log entry 16. -/
def readItem (word : List Char) (args : List (List Char)) : Option Line :=
  if word = "wr".toList then
    match args with
    | [p, v] => (portTable.lookup (lowerName p)).bind fun p => readWrite p v
    | _ => none
  else if word = "rd".toList then
    match args with
    | [p] => if lowerName p = "status".toList then some .rdStatus else (portTable.lookup (lowerName p)).map .rd
    | _ => none
  else if word = ".byte".toList then
    match args with
    | [v] => (readNat v).map .rawByte
    | _ => none
  else if word = "ldtxt".toList then
    match args with
    | [t] => (readString t).map .ldtxt
    | _ => none
  else if word = "valid".toList then
    match args with
    | [t] => (readString t).map .valid
    | _ => none
  else if word = "ldkey".toList then
    match args with
    | [a, b] => (readNat a).bind fun a => (readNat b).map fun b => .ldkey a b
    | _ => none
  else if word = "setk".toList then
    match args with
    | [a, b] => (readNat a).bind fun a => (readNat b).map fun b => .setk a b
    | _ => none
  else if word = "setk0".toList then
    match args with
    | [a] => (readNat a).map .setk0
    | _ => none
  else if word = "enct".toList then
    match args with
    | [t, a, b] => (readString t).bind fun t => (readNat a).bind fun a => (readNat b).map fun b => .enct t a b
    | _ => none
  else if word = "dect".toList then
    match args with
    | [t, a, b] => (readString t).bind fun t => (readNat a).bind fun a => (readNat b).map fun b => .dect t a b
    | _ => none
  else if args = [[]] then (mnemonicTable.lookup word).map .command
  else none

/-- One line of text: some none for a line with no item, none for a line that is not of R67's forms. -/
def readLine (cs : List Char) : Option (Option Line) :=
  let body := trimBlanks (dropComment false cs)
  if body.isEmpty then some none
  else
    let word := body.takeWhile fun c => !isBlank c
    let args := (splitCommas false [] (body.dropWhile fun c => !isBlank c)).map trimBlanks
    (readItem (lowerName word) args).map some

/-- The lines of a host program's text (R67); none if some line is not of the forms of R67 and R68 (log entry 16). -/
def readProgram (cs : List Char) : Option (List Line) := ((splitLines [] cs).mapM readLine).map fun ls => ls.filterMap id

/-- The events of a host program's text. -/
def assemble (cs : List Char) : Option (List HostEvent) := (readProgram cs).bind programEvents

end Sys2Proof.Machine
end

