-- ==== Sys2Proof/Tests/Slice0.lean ====
section
/-!
SUPPORT. Tests on single steps, expected values from spec/95_test_vectors.md (the vector's id is in each comment), the
smoke tests of WellFormed, and for every statement with hypotheses a witness that something meets them together.
-/

namespace Sys2Proof.Tests

open Sys2Proof Sys2Proof.Machine

/-! ## Helpers -/

/-- The octets of a 36-character string. -/
def txt (s : String) : Text := (textOfChars s.toList).getD (Vector.replicate 36 0#8)

/-- The STATUS a result leaves. -/
def statusOf (r : Result) : Option (BitVec 8) :=
  match r with
  | .next t => some t.status
  | .fault _ => none
  | .refused _ => none

/-- The UOUT a result leaves. -/
def uoutOf (r : Result) : Option Uuid :=
  match r with
  | .next t => t.uout
  | .fault _ => none
  | .refused _ => none

/-- The TOUT a result leaves. -/
def toutOf (r : Result) : Option Text :=
  match r with
  | .next t => t.tout
  | .fault _ => none
  | .refused _ => none

/-- The MOUT a result leaves. -/
def moutOf (r : Result) : Option Mask :=
  match r with
  | .next t => t.mout
  | .fault _ => none
  | .refused _ => none

/-- The KEYREG a result leaves. -/
def keyOf (r : Result) : Option (Word × Word × Bool) :=
  match r with
  | .next t => some (t.k0, t.k1, t.kvalid)
  | .fault _ => none
  | .refused _ => none

/-- The port a result's fault names. -/
def faultOf (r : Result) : Option Port :=
  match r with
  | .next _ => none
  | .fault (.unwrittenPort p) => some p
  | .refused _ => none

/-- A state after reset with a text written. -/
def withText0 (s : String) : State := { State.reset with tlen := some 36#32, tin := some (txt s) }

/-- A state after reset with a text and the explicit key 123, 456. -/
def keyed (s : String) : State := { withText0 s with kin0 := some 123#64, kin1 := some 456#64 }

/-- A state after reset with a text and the stored key 123, 456. -/
def stored (s : String) : State := { withText0 s with k0 := 123#64, k1 := 456#64, kvalid := true }

/-- A state after reset with a value in UIN and the explicit key 123, 456. -/
def binary (u : Uuid) : State := { State.reset with uin := some u, kin0 := some 123#64, kin1 := some 456#64 }

/-- A state after reset with the three operands of MASK. -/
def masking (a b n : Word) : State := { State.reset with kin0 := some a, kin1 := some b, nin := some n }

/-- A state with every operand port written and a key stored. -/
def full : State :=
  { stored "0190f2a3-1b2c-7d4e-8f60-123456789abc" with
    uin := some 0x0190f2a31b2c7d4e8f60123456789abc#128, kin0 := some 123#64, kin1 := some 456#64,
    kpres := some 0b11#2, nin := some 0#64, min := some 0xffffffffffff#48, vin := some 4#4 }

/-- A state with one event to come. -/
def facing (s : State) (e : HostEvent) : State := { s with pending := [{ host := 0, event := e }] }

/-! ## Decoding: the words of 30_encoding.md R62, bit by bit -/

theorem test_decode_parse : decode 0b00000001#8 = .ok .parse := rfl
theorem test_decode_serialize : decode 0b00000010#8 = .ok .serialize := rfl
theorem test_decode_validate : decode 0b00000011#8 = .ok .validate := rfl
theorem test_decode_mask : decode 0b00000100#8 = .ok .mask := rfl
theorem test_decode_xorts : decode 0b00000101#8 = .ok .xorts := rfl
theorem test_decode_setver : decode 0b00000110#8 = .ok .setver := rfl
theorem test_decode_encb : decode 0b00000111#8 = .ok .encb := rfl
theorem test_decode_decb : decode 0b00001000#8 = .ok .decb := rfl
theorem test_decode_encf : decode 0b00001001#8 = .ok .encf := rfl
theorem test_decode_decf : decode 0b00001010#8 = .ok .decf := rfl
theorem test_decode_setkeys : decode 0b00001011#8 = .ok .setkeys := rfl
theorem test_decode_haskeys : decode 0b00001100#8 = .ok .haskeys := rfl
theorem test_decode_enc : decode 0b00001101#8 = .ok .enc := rfl
theorem test_decode_dec : decode 0b00001110#8 = .ok .dec := rfl

/-- The words V-E1..V-E5 of R65. -/
theorem test_decode_illegal : [0x00#8, 0x0F#8, 0x10#8, 0x80#8, 0xFF#8].map (fun w => decodeTableWord 8 w.toNat) =
    [none, none, none, none, none] := by decide

theorem test_table_words : [0x03, 0x04, 0x08, 0x0D].map (decodeTableWord 8) =
    [some .validate, some .mask, some .decb, some .enc] := by decide

/-! ## Smoke tests: what the checks refuse -/

theorem test_legalWord_refuses_zero : legalWord 0x00#8 = false := by decide
theorem test_legalWord_refuses_high : legalWord 0x0F#8 = false := by decide
theorem test_legalWord_accepts : legalWord 0x01#8 = true ∧ legalWord 0x0E#8 = true := by decide
theorem test_lineWf_refuses_wide_key : lineWf (.wr .kin0 (2 ^ 64)) = false := by decide
theorem test_lineWf_refuses_wide_length : lineWf (.wr .tlen (2 ^ 32)) = false := by decide
theorem test_lineWf_refuses_wide_text : lineWf (.wr .tin (256 ^ 36)) = false := by decide
theorem test_lineWf_refuses_wide_value : lineWf (.wr .uin (2 ^ 128)) = false := by decide
theorem test_lineWf_refuses_wide_key1 : lineWf (.wr .kin1 (2 ^ 64)) = false := by decide
theorem test_lineWf_refuses_wide_presence : lineWf (.wr .kpres 4) = false := by decide
theorem test_lineWf_refuses_wide_nonce : lineWf (.wr .nin (2 ^ 64)) = false := by decide
theorem test_lineWf_refuses_wide_mask : lineWf (.wr .min (2 ^ 48)) = false := by decide
theorem test_lineWf_refuses_wide_version : lineWf (.wr .vin 16) = false := by decide
theorem test_lineWf_refuses_result_ports : lineWf (.wr .tout 0) = false ∧ lineWf (.wr .uout 0) = false ∧
    lineWf (.wr .mout 0) = false := by decide
theorem test_lineWf_refuses_short_string : lineWf (.wrString "abc".toList) = false := by decide
theorem test_lineWf_refuses_bad_uuid : lineWf (.wrUuid "00000000-0000-7000-8000-00000000000g".toList) = false := by decide
theorem test_lineWf_refuses_wide_word : lineWf (.rawByte 256) = false := by decide
theorem test_lineWf_refuses_wide_setk : lineWf (.setk (2 ^ 64) 0) = false := by decide

/-! ## One command each -/

/-- V-C2: mixed case. -/
theorem test_parse_mixed_case : uoutOf (exec .parse (withText0 "0190F2A3-1b2c-7D4E-8f60-123456789ABC")) =
    some 0x0190f2a31b2c7d4e8f60123456789abc#128 := by decide

/-- V-C8: a hyphen at the wrong place. -/
theorem test_parse_hyphen_misplaced : statusOf (exec .parse (withText0 "0000000-00000-7000-8000-000000000000")) =
    some 0x01#8 := by decide

/-- V-C33: the output is lower case. -/
theorem test_serialize_lower_case :
    toutOf (exec .serialize (binary 0x018f4e2a9c1b7a3db2c45e6f708192a3#128)) =
      some (txt "018f4e2a-9c1b-7a3d-b2c4-5e6f708192a3") := by decide

/-- V-C22: variant digit 'b' is 10b. -/
theorem test_validate_variant_b : statusOf (exec .validate (withText0 "00000000-0000-7000-b000-000000000000")) =
    some 0x08#8 := by decide

/-- V-C13: version 9 is outside 1..8. -/
theorem test_validate_version_nine : statusOf (exec .validate (withText0 "00000000-0000-9000-8000-000000000000")) =
    some 0x00#8 := by decide

/-- V-M4, which confirms the octet order of the nonce. -/
theorem test_mask_octet_order :
    moutOf (exec .mask (masking 0x0706050403020100#64 0x0f0e0d0c0b0a0908#64 0x0001020304050607#64)) =
      some 0xf5799a932462#48 := by decide

/-- V-M6: a nonce no UUID has. -/
theorem test_mask_high_nonce_bits : moutOf (exec .mask (masking 123#64 456#64 0xffffffffffffffff#64)) =
    some 0x05debe7aa973#48 := by decide

/-- V-X3. -/
theorem test_xorts : uoutOf (exec .xorts { binary 0x0190f2a31b2c7d4e8f60123456789abc#128 with
    min := some 0x123456789abc#48 }) = some 0x13a4a4db81907d4e8f60123456789abc#128 := by decide

/-- V-X6. -/
theorem test_setver_fifteen : uoutOf (exec .setver { binary 0x0190f2a31b2c7d4e8f60123456789abc#128 with
    vin := some 0xf#4 }) = some 0x0190f2a31b2cfd4e8f60123456789abc#128 := by decide

/-- V-B3. -/
theorem test_encb : uoutOf (exec .encb (binary 0x0190f2a31b2c7d4e8f60123456789abc#128)) =
    some 0x4ea8ac6bfc584d4e8f60123456789abc#128 := by decide

/-- V-B4, with the key ports unwritten: they are not read. -/
theorem test_encb_version_four : statusOf (exec .encb { State.reset with
    uin := some 0x0190f2a31b2c4d4e8f60123456789abc#128 }) = some 0x02#8 := by decide

/-- V-B2. -/
theorem test_decb : uoutOf (exec .decb (binary 0x84b2904d09dc40008000000000000000#128)) =
    some 0x00000000000070008000000000000000#128 := by decide

/-- V-B5, with the key ports unwritten: they are not read. -/
theorem test_decb_variant : statusOf (exec .decb { State.reset with
    uin := some 0x0190f2a31b2c7d4ecf60123456789abc#128 }) = some 0x03#8 := by decide

/-- V-T7: upper-case input, lower-case output. -/
theorem test_encf_upper_case : toutOf (exec .encf (keyed "018F4E2A-9C1B-7A3D-B2C4-5E6F708192A3")) =
    some (txt "b1548916-46f8-4a3d-b2c4-5e6f708192a3") := by decide

/-- V-T26: variant 11b. -/
theorem test_encf_variant : statusOf (exec .encf (keyed "00000000-0000-7000-c000-000000000000")) = some 0x02#8 := by
  decide

/-- V-T24: a version-4 value decodes. -/
theorem test_decf_any_version : toutOf (exec .decf (keyed "00000000-0000-4000-8000-000000000000")) =
    some (txt "84b2904d-09dc-7000-8000-000000000000") := by decide

/-- V-T27: variant 00b. -/
theorem test_decf_variant : statusOf (exec .decf (keyed "00000000-0000-7000-0000-000000000000")) = some 0x03#8 := by
  decide

/-- V-K9. -/
theorem test_setkeys : keyOf (exec .setkeys { keyed "" with kpres := some 0b11#2 }) = some (123#64, 456#64, true) := by
  decide

/-- V-K13: a half absent, the stored key stays. -/
theorem test_setkeys_half : keyOf (exec .setkeys { stored "" with
    kin0 := some 0#64, kin1 := some 0#64, kpres := some 0b01#2 }) = some (123#64, 456#64, true) := by decide

/-- V-K2 and V-K10. -/
theorem test_haskeys : statusOf (exec .haskeys State.reset) = some 0x00#8 ∧
    statusOf (exec .haskeys (stored "")) = some 0x08#8 := by decide

/-- V-K11. -/
theorem test_enc : toutOf (exec .enc (stored "00000000-0000-7000-8000-000000000000")) =
    some (txt "84b2904d-09dc-4000-8000-000000000000") := by decide

/-- V-K12: an error leaves the older TOUT. -/
theorem test_enc_stale : toutOf (exec .enc { stored "" with tlen := some 10#32, tout := some (txt "older") }) =
    some (txt "older") := by decide

/-- The example of R153. -/
theorem test_dec : toutOf (exec .dec (stored "84b2904d-09dc-4000-8000-000000000000")) =
    some (txt "00000000-0000-7000-8000-000000000000") := by decide

/-- V-K8: the key check comes first. -/
theorem test_dec_without_key : statusOf (exec .dec { State.reset with tlen := some 10#32 }) = some 0x05#8 := by decide

/-! ## Steps -/

/-- V-E6: an illegal word right after reset. -/
theorem test_illegal_after_reset : statusOf (step (State.reset.withFetchWord 8 0x00)) = some 0x06#8 := by decide

/-- HASKEYS runs as the first command after reset (V-K2). -/
theorem test_first_command_runs : statusOf (step (State.reset.withFetchWord 8 0x0C)) = some 0x00#8 := by decide

/-- PARSE right after reset reads the unwritten TLEN (R30). -/
theorem test_unwritten_tlen : faultOf (step (State.reset.withFetchWord 8 0x01)) = some .tlen := by decide

/-- TLEN = 36 with TIN unwritten (R81); TLEN = 0 does not read TIN (V-C6). -/
theorem test_unwritten_tin : faultOf (exec .parse { State.reset with tlen := some 36#32 }) = some .tin ∧
    statusOf (exec .parse { State.reset with tlen := some 0#32 }) = some 0x01#8 := by decide

/-- The published SipHash-2-4 vectors V-P1 and V-P3, over other messages than MASK's. -/
theorem test_siphash_vectors :
    sipHash24 0x0706050403020100#64 0x0f0e0d0c0b0a0908#64 [0#64] = 0x726fdb47dd0e0e31#64 ∧
    sipHash24 0x0706050403020100#64 0x0f0e0d0c0b0a0908#64 [0x0706050403020100#64, 0x0f0e0d0c0b0a0908#64] =
      0xa129ca6149be45e5#64 := by decide

/-- R67, R68: mnemonics in either case, a comment, a pseudo-instruction, a raw word; the encoding is the command bytes. -/
theorem test_assemble_words :
    (assemble "haskeys ; 0x0C\nSETK0 123\nrd status\n.byte 0xFF\n".toList).map programWords =
      some [0x0C#8, 0x0B#8, 0xFF#8] := by decide

/-- Log entry 16: a raw word may also be decimal, and `.byte` may be in either case. -/
theorem test_assemble_raw_word_decimal : assemble ".BYTE 15".toList = some [.command 0x0F#8] := by decide

/-- R67: a number for a port, in the two bases. -/
theorem test_assemble_writes : assemble "WR VIN, 0xf\nWR NIN, 123".toList =
    some [.write (.vin 15#4), .write (.nin 123#64)] := by decide

/-! ## Witnesses: the hypotheses of each statement are met together -/

theorem full_text : TextGives full (some 0x0190f2a31b2c7d4e8f60123456789abc#128) := .inr ⟨_, rfl, rfl, by decide⟩

/-- A state whose text does not parse, its length being 10. -/
def badText : State := { full with tlen := some 10#32 }

theorem badText_text : TextGives badText none := .inl ⟨_, rfl, by decide, rfl⟩

/-- A state whose text and value are of version 4, which encode turns away. -/
def facade : State :=
  { full with
    tin := some (txt "0190f2a3-1b2c-4d4e-8f60-123456789abc"), uin := some 0x0190f2a31b2c4d4e8f60123456789abc#128 }

theorem facade_text : TextGives facade (some 0x0190f2a31b2c4d4e8f60123456789abc#128) := .inr ⟨_, rfl, rfl, by decide⟩

/-- A state whose text and value are of variant 11b, which encode and decode turn away. -/
def badVariant : State :=
  { full with
    tin := some (txt "0190f2a3-1b2c-7d4e-cf60-123456789abc"), uin := some 0x0190f2a31b2c7d4ecf60123456789abc#128 }

theorem badVariant_text : TextGives badVariant (some 0x0190f2a31b2c7d4ecf60123456789abc#128) :=
  .inr ⟨_, rfl, rfl, by decide⟩

/-- The full state with TIN unwritten. -/
def noTin : State := { full with tin := none }

/-- The full state with KIN1 unwritten. -/
def noKin1 : State := { full with kin1 := none }

theorem full_class : ver 0x0190f2a31b2c7d4e8f60123456789abc#128 = 7#4 ∧
    variant 0x0190f2a31b2c7d4e8f60123456789abc#128 = 0b10#2 := by decide

theorem witness_DecodeIsExactMatch : (0x00#8 = 0x00#8 ∨ 0x0F#8 ≤ 0x00#8) ∧ (0x0F#8 = 0x00#8 ∨ 0x0F#8 ≤ 0x0F#8) ∧
    (0xFF#8 = 0x00#8 ∨ 0x0F#8 ≤ 0xFF#8) := by decide

theorem witness_DecodeEncodeAgree : Instr.parse.wf = true ∧ decode 0x0E#8 = .ok .dec := ⟨rfl, rfl⟩

theorem witness_StepRunsDecodedCommand :
    (facing full (.command 0x04#8)).pending = { host := 0, event := .command 0x04#8 } :: [] ∧
      decode 0x04#8 = .ok .mask := ⟨rfl, rfl⟩

theorem witness_IllegalWordOnlySetsStatus :
    (facing State.reset (.command 0x0F#8)).pending = { host := 0, event := .command 0x0F#8 } :: [] ∧
      (0x0F#8 = 0x00#8 ∨ 0x0F#8 ≤ 0x0F#8) := ⟨rfl, by decide⟩

theorem witness_HostWriteChangesOneOperandPort (v : OperandVal) :
    (facing State.reset (.write v)).pending = { host := 0, event := .write v } :: [] := rfl

theorem witness_HostReadShowsValueAndChangesNothing :
    (facing full (.read .vin)).pending = { host := 0, event := .read .vin } :: [] ∧
      full.vin = some 4#4 ∧ (facing full (.read .tout)).pending = { host := 0, event := .read .tout } :: [] ∧
      full.tout = none := ⟨rfl, rfl, rfl, rfl⟩

/-- Every clause on a written port: a state with all twelve ports written. -/
theorem witness_reads_every_port : ∀ p : Port,
    (portValue p { full with tout := some (txt ""), uout := some 0#128, mout := some 0#48 }).isSome := by
  intro p; cases p <;> decide

theorem witness_ResetEventClearsTheBlock :
    (facing full .reset).pending = { host := 0, event := .reset } :: [] := rfl

theorem witness_ParseWritesUout : (∃ u, TextGives full (some u)) ∧ TextGives badText none ∧
    (noTin.tlen = some 36#32 ∧ noTin.tin = none) := ⟨⟨_, full_text⟩, badText_text, rfl, rfl⟩

theorem witness_SerializeWritesTout : full.uin = some 0x0190f2a31b2c7d4e8f60123456789abc#128 ∧
    State.reset.uin = none := ⟨rfl, rfl⟩

theorem witness_ValidateReportsVerdict :
    (TextGives full (some 0x0190f2a31b2c7d4e8f60123456789abc#128) ∧
      1 ≤ (ver 0x0190f2a31b2c7d4e8f60123456789abc#128).toNat ∧ (ver 0x0190f2a31b2c7d4e8f60123456789abc#128).toNat ≤ 8 ∧
      variant 0x0190f2a31b2c7d4e8f60123456789abc#128 = 0b10#2) ∧
    (TextGives badText none ∧ ¬ ∃ u : Uuid, none = some u ∧ 1 ≤ (ver u).toNat ∧ (ver u).toNat ≤ 8 ∧ variant u = 0b10#2) :=
  ⟨⟨full_text, by decide, by decide, by decide⟩, badText_text, by simp⟩

/-- The bounds of VALIDATE's verdict: versions 1 and 8 are inside, 0 is outside (9 above). -/
theorem witness_ValidateReportsVerdict_bounds :
    statusOf (exec .validate (withText0 "00000000-0000-1000-8000-000000000000")) = some 0x08#8 ∧
    statusOf (exec .validate (withText0 "00000000-0000-8000-8000-000000000000")) = some 0x08#8 ∧
    statusOf (exec .validate (withText0 "00000000-0000-0000-0000-000000000000")) = some 0x00#8 := by decide

theorem witness_MaskWritesMout : (full.kin0 = some 123#64 ∧ full.kin1 = some 456#64 ∧ full.nin = some 0#64) ∧
    State.reset.kin0 = none ∧ noKin1.kin1 = none ∧ ({ full with nin := none } : State).nin = none :=
  ⟨⟨rfl, rfl, rfl⟩, rfl, rfl, rfl⟩

theorem witness_XortsWritesUout : full.uin = some 0x0190f2a31b2c7d4e8f60123456789abc#128 ∧
    full.min = some 0xffffffffffff#48 := ⟨rfl, rfl⟩

theorem witness_SetverWritesUout : full.uin = some 0x0190f2a31b2c7d4e8f60123456789abc#128 ∧ full.vin = some 4#4 :=
  ⟨rfl, rfl⟩

/-- Both causes of INVALID_UUIDV7, the version in facade and the variant in badVariant. -/
theorem witness_EncbWritesFacade :
    (∃ u k0 k1, full.uin = some u ∧ (ver u = 7#4 ∧ variant u = 0b10#2) ∧ full.kin0 = some k0 ∧ full.kin1 = some k1) ∧
    (∃ u, facade.uin = some u ∧ ¬ (ver u = 7#4 ∧ variant u = 0b10#2)) ∧
    (∃ u, badVariant.uin = some u ∧ ¬ (ver u = 7#4 ∧ variant u = 0b10#2)) ∧
    ∃ u, noKin1.uin = some u ∧ (ver u = 7#4 ∧ variant u = 0b10#2) ∧ ¬ KeyPortsWritten noKin1 :=
  ⟨⟨_, _, _, rfl, full_class, rfl, rfl⟩, ⟨_, rfl, by decide⟩, ⟨_, rfl, by decide⟩, _, rfl, full_class,
    fun h => absurd h.2 (by decide)⟩

theorem witness_DecbWritesRecoveredValue :
    (∃ u k0 k1, facade.uin = some u ∧ variant u = 0b10#2 ∧ facade.kin0 = some k0 ∧ facade.kin1 = some k1) ∧
    (∃ u, badVariant.uin = some u ∧ ¬ variant u = 0b10#2) ∧
    ∃ u, noKin1.uin = some u ∧ variant u = 0b10#2 ∧ ¬ KeyPortsWritten noKin1 :=
  ⟨⟨_, _, _, rfl, by decide, rfl, rfl⟩, ⟨_, rfl, by decide⟩, _, rfl, full_class.2, fun h => absurd h.2 (by decide)⟩

theorem witness_EncfWritesFacadeText : TextGives badText none ∧
    (∃ u k0 k1, TextGives full (some u) ∧ (ver u = 7#4 ∧ variant u = 0b10#2) ∧ full.kin0 = some k0 ∧
      full.kin1 = some k1) ∧
    (∃ u, TextGives facade (some u) ∧ ¬ (ver u = 7#4 ∧ variant u = 0b10#2)) ∧
    ∃ u, TextGives noKin1 (some u) ∧ (ver u = 7#4 ∧ variant u = 0b10#2) ∧ ¬ KeyPortsWritten noKin1 :=
  ⟨badText_text, ⟨_, _, _, full_text, full_class, rfl, rfl⟩, ⟨_, facade_text, by decide⟩, _, full_text, full_class,
    fun h => absurd h.2 (by decide)⟩

theorem witness_DecfWritesRecoveredText : TextGives badText none ∧
    (∃ u k0 k1, TextGives facade (some u) ∧ variant u = 0b10#2 ∧ facade.kin0 = some k0 ∧ facade.kin1 = some k1) ∧
    (∃ u, TextGives badVariant (some u) ∧ ¬ variant u = 0b10#2) ∧
    ∃ u, TextGives noKin1 (some u) ∧ variant u = 0b10#2 ∧ ¬ KeyPortsWritten noKin1 :=
  ⟨badText_text, ⟨_, _, _, facade_text, by decide, rfl, rfl⟩, ⟨_, badVariant_text, by decide⟩, _, full_text,
    full_class.2, fun h => absurd h.2 (by decide)⟩

theorem witness_SetkeysStoresOrReportsMissing :
    (full.kpres = some 0b11#2 ∧ full.kin0 = some 123#64 ∧ full.kin1 = some 456#64) ∧ (0b01#2 ≠ 0b11#2) ∧
      ({ full with kpres := some 0b01#2 } : State).kpres = some 0b01#2 ∧ State.reset.kpres = none :=
  ⟨⟨rfl, rfl, rfl⟩, by decide, rfl, rfl⟩

theorem witness_HaskeysReportsKvalid : full.kvalid = true ∧ State.reset.kvalid = false := ⟨rfl, rfl⟩

theorem witness_EncUsesTheStoredKey : State.reset.kvalid = false ∧ (badText.kvalid = true ∧ TextGives badText none) ∧
    (∃ u, full.kvalid = true ∧ TextGives full (some u) ∧ ver u = 7#4 ∧ variant u = 0b10#2) ∧
    ∃ u, facade.kvalid = true ∧ TextGives facade (some u) ∧ ¬ (ver u = 7#4 ∧ variant u = 0b10#2) :=
  ⟨rfl, ⟨rfl, badText_text⟩, ⟨_, rfl, full_text, full_class⟩, _, rfl, facade_text, by decide⟩

theorem witness_DecUsesTheStoredKey : State.reset.kvalid = false ∧ (badText.kvalid = true ∧ TextGives badText none) ∧
    (∃ u, facade.kvalid = true ∧ TextGives facade (some u) ∧ variant u = 0b10#2) ∧
    ∃ u, badVariant.kvalid = true ∧ TextGives badVariant (some u) ∧ ¬ variant u = 0b10#2 :=
  ⟨rfl, ⟨rfl, badText_text⟩, ⟨_, rfl, facade_text, by decide⟩, _, rfl, badVariant_text, by decide⟩

/-- Each cause of R170 occurs: codes 1 to 6. -/
theorem witness_ErrorCodesHaveExactlyTheirCauses :
    decode 0x01#8 = .ok .parse ∧ TextGives badText none ∧ statusOf (runCommand 0x01#8 badText) = some 0x01#8 ∧
    statusOf (runCommand 0x07#8 facade) = some 0x02#8 ∧ statusOf (runCommand 0x0A#8 badVariant) = some 0x03#8 ∧
    statusOf (runCommand 0x0B#8 { full with kpres := some 0b10#2 }) = some 0x04#8 ∧
    statusOf (runCommand 0x0E#8 State.reset) = some 0x05#8 ∧ statusOf (runCommand 0x0F#8 State.reset) = some 0x06#8 :=
  ⟨rfl, badText_text, by decide, by decide, by decide, by decide, by decide, by decide⟩

theorem witness_UnwrittenTextPortFaults :
    ((Port.tlen = .tlen ∧ State.reset.tlen = none) ∧ Instr.parse ∈ [Instr.parse, .validate, .encf, .decf]) ∧
    ({ full with tin := none } : State).tlen = some 36#32 ∧ ({ full with tin := none } : State).tin = none ∧
      Instr.enc ∈ [Instr.enc, .dec] ∧ ({ full with tin := none } : State).kvalid = true :=
  ⟨⟨⟨rfl, rfl⟩, by decide⟩, rfl, rfl, by decide, rfl⟩

/-- The clauses on KIN0 and KIN1; the other clauses are met by full without the port in question. -/
theorem witness_UnwrittenOperandPortFaults :
    (({ full with kin1 := none } : State).kin0.isSome ∧ ({ full with kin1 := none } : State).kin1 = none ∧
      ({ full with kin1 := none } : State).nin.isSome ∧ ({ full with kin1 := none } : State).kpres = some 0b11#2 ∧
      (∃ u, ({ full with kin1 := none } : State).uin = some u ∧ IsV7 u ∧ TextGives { full with kin1 := none } (some u))) ∧
    (({ full with kin0 := none } : State).kin0 = none ∧ ({ full with kin0 := none } : State).kin1.isSome) ∧
    (({ full with uin := none } : State).uin = none ∧ ({ full with uin := none } : State).min.isSome ∧
      ({ full with uin := none } : State).vin.isSome) ∧
    (({ full with min := none, vin := none, nin := none } : State).uin.isSome ∧
      ({ full with min := none, vin := none, nin := none } : State).kin0.isSome) :=
  ⟨⟨rfl, rfl, rfl, rfl, _, rfl, full_class, full_text⟩, ⟨rfl, rfl⟩, ⟨rfl, rfl, rfl⟩, rfl, rfl⟩

/-- Every command is ready in the full state, and all but HASKEYS, ENC and DEC are unready after reset. -/
theorem witness_CompletesExactlyWhenReady : (∀ i, Ready i full) ∧ ¬ Ready .mask State.reset := by
  refine ⟨fun i => ?_, fun h => absurd h.2 (by decide)⟩
  cases i <;> simp only [Ready]
  · exact ⟨_, full_text⟩
  · rfl
  · exact ⟨_, full_text⟩
  · exact ⟨⟨rfl, rfl⟩, rfl⟩
  · exact ⟨rfl, rfl⟩
  · exact ⟨rfl, rfl⟩
  · exact ⟨_, rfl, fun _ => ⟨rfl, rfl⟩⟩
  · exact ⟨_, rfl, fun _ => ⟨rfl, rfl⟩⟩
  · exact ⟨_, full_text, fun _ _ _ => ⟨rfl, rfl⟩⟩
  · exact ⟨_, full_text, fun _ _ _ => ⟨rfl, rfl⟩⟩
  · exact ⟨_, rfl, fun _ => ⟨rfl, rfl⟩⟩
  · exact fun _ => ⟨_, full_text⟩
  · exact fun _ => ⟨_, full_text⟩

theorem witness_UoutWritersFrame : ∃ t, Instr.xorts ∈ [Instr.parse, .xorts, .setver, .encb, .decb] ∧
    exec .xorts full = .next t ∧ statusErr t.status = 0#3 := ⟨_, by decide, rfl, rfl⟩

theorem witness_UoutWritersFrame_error : ∃ t, Instr.encb ∈ [Instr.parse, .xorts, .setver, .encb, .decb] ∧
    exec .encb facade = .next t ∧ statusErr t.status ≠ 0#3 :=
  ⟨facade.setStatus 0x02#8, by decide, by
    have h : encCheck 0x0190f2a31b2c4d4e8f60123456789abc#128 = some .invalidUuidv7 := by decide
    simp [exec, execEncb, runBinary, facade, withOperand, h, raiseError, statusWord, errNumber], by decide⟩

theorem witness_ToutWritersFrame : ∃ t, Instr.serialize ∈ [Instr.serialize, .encf, .decf, .enc, .dec] ∧
    exec .serialize full = .next t ∧ statusErr t.status = 0#3 := ⟨_, by decide, rfl, rfl⟩

theorem witness_ToutWritersFrame_error : ∃ t, Instr.dec ∈ [Instr.serialize, .encf, .decf, .enc, .dec] ∧
    exec .dec State.reset = .next t ∧ statusErr t.status ≠ 0#3 := ⟨_, by decide, rfl, by decide⟩

theorem witness_MaskValidateHaskeysFrame : ∃ t, Instr.haskeys ∈ [Instr.mask, .validate, .haskeys] ∧
    exec .haskeys full = .next t ∧ Instr.haskeys ≠ .mask := ⟨_, by decide, rfl, by decide⟩

theorem witness_SetkeysFrame : (∃ t, exec .setkeys full = .next t) ∧
    ∃ t, exec .setkeys { full with kpres := some 0b01#2 } = .next t ∧ statusErr t.status ≠ 0#3 :=
  ⟨⟨_, rfl⟩, _, rfl, by decide⟩

theorem witness_ErrorWritesOnlyStatus :
    (∃ t, runCommand 0x0D#8 State.reset = .next t ∧ statusErr t.status ≠ 0#3) ∧
    ∃ t, runCommand 0x00#8 State.reset = .next t ∧ statusErr t.status ≠ 0#3 :=
  ⟨⟨_, rfl, by decide⟩, _, rfl, by decide⟩

theorem witness_KeyWrittenOnlyBySetkeysAndReset : ∃ t,
    (facing full (.command 0x0C#8)).pending = { host := 0, event := .command 0x0C#8 } :: [] ∧
      step (facing full (.command 0x0C#8)) = .next t ∧ KeepsKey { host := 0, event := .command 0x0C#8 } ∧
      full.kvalid = true := ⟨_, rfl, rfl, ⟨by decide, by decide⟩, rfl⟩

theorem witness_OperandPortsChangedOnlyByHost : ∃ t,
    (facing full (.command 0x04#8)).pending = { host := 0, event := .command 0x04#8 } :: [] ∧
      step (facing full (.command 0x04#8)) = .next t ∧ HostEvent.command 0x04#8 ≠ .reset ∧
      ∀ v, HostEvent.command 0x04#8 ≠ .write v := ⟨_, rfl, rfl, by decide, by simp⟩

theorem witness_OutcomeIgnoresStatusAndResults :
    SameKey full { full with status := 0x06#8, mout := some 1#48 } ∧
      SameOperands full { full with status := 0x06#8, mout := some 1#48 } ∧
      (∃ t, exec .mask full = .next t) ∧ ∃ f, exec .mask State.reset = .fault f :=
  ⟨⟨rfl, rfl, rfl⟩, ⟨rfl, rfl, rfl, rfl, rfl, rfl, rfl, rfl, rfl⟩, ⟨_, rfl⟩, _, rfl⟩

theorem witness_ParseAcceptsExactlyCanonicalText : ∃ t u, parseText 36#32 t = some u ∧ hexPos[8]? = some 9 :=
  ⟨txt "00000000-0000-7000-8000-000000000000", 0x00000000000070008000000000000000#128, by decide, rfl⟩

theorem witness_SerializeGivesLowerCaseDigits : (8 : Fin 36) ∈ hyphenPos ∧ hexPos[31]? = some 35 := ⟨by decide, rfl⟩

theorem witness_TextRoundTrip : IsCanonical (txt "0190F2A3-1b2c-7D4E-8f60-123456789ABC") ∧
    parseText 36#32 (txt "0190F2A3-1b2c-7D4E-8f60-123456789ABC") = some 0x0190f2a31b2c7d4e8f60123456789abc#128 := by
  decide

theorem witness_ValidateImpliesParse :
    statusOf (exec .validate full) = some 0x08#8 ∧ statusBool 0x08#8 = true ∧
    full.tlen = some 36#32 ∧ full.tin = some (txt "0190f2a3-1b2c-7d4e-8f60-123456789abc") ∧
    IsCanonical (txt "0190f2a3-1b2c-7d4e-8f60-123456789abc") := by decide

theorem witness_FacadeRoundTrip : ∃ t u k0 k1, full.tlen = some 36#32 ∧ full.tin = some t ∧
    parseText 36#32 t = some u ∧ ver u = 7#4 ∧ variant u = 0b10#2 ∧ full.kin0 = some k0 ∧ full.kin1 = some k1 ∧
    ∀ i : Fin 36, ¬ IsUpperOctet t[i] :=
  ⟨txt "0190f2a3-1b2c-7d4e-8f60-123456789abc", 0x0190f2a31b2c7d4e8f60123456789abc#128, _, _, rfl, rfl, by decide,
    full_class.1, full_class.2, rfl, rfl, by decide⟩

theorem witness_OutputStructure :
    statusOf (exec .encb full) = some 0x00#8 ∧ statusOf (exec .encf full) = some 0x00#8 ∧ statusErr 0x00#8 = 0#3 := by
  decide

theorem witness_WrongKeyIsNeverAnError : variant 0x0190f2a31b2c7d4e8f60123456789abc#128 = 0b10#2 ∧
    ver 0x0190f2a31b2c7d4e8f60123456789abc#128 = 7#4 := by decide

theorem witness_ReverseRoundTrip : variant 0x0190f2a31b2c4d4e8f60123456789abc#128 = 0b10#2 ∧
    ver 0x0190f2a31b2c4d4e8f60123456789abc#128 = 4#4 := by decide

/-- ENCB succeeds in the full state, and so do the two cores on its value. -/
theorem witness_SharedPrimitiveSequence : (∃ u, full.uin = some u) ∧ statusOf (exec .encb full) = some 0x00#8 ∧
    (encCore 0x0190f2a31b2c7d4e8f60123456789abc#128 0#64 0#64).isOk ∧
    (decCore 0x0190f2a31b2c7d4e8f60123456789abc#128 0#64 0#64).isOk := ⟨⟨_, rfl⟩, by decide, by decide, by decide⟩

theorem witness_StoredKeyAgreesWithExplicit : full.kvalid = true ∧ statusOf (exec .enc full) = some 0x00#8 ∧
    faultOf (exec .enc { full with tlen := none }) = some .tlen := by decide

/-- A command comes between the write of NIN and its reading back. -/
theorem witness_OperandPortReadsBackLastWrite : ∃ t,
    (∀ e ∈ [({ host := 1, event := .command 0x04#8 } : Issued)],
      e.event ≠ .reset ∧ ∀ x, portOf x = portOf (.nin 5#64) → e.event ≠ .write x) ∧
    Host.Core.run core 3 { full with pending :=
      { host := 0, event := .write (.nin 5#64) } ::
        ([{ host := 1, event := .command 0x04#8 }] ++ { host := 0, event := .read (portOf (.nin 5#64)) } :: []) } =
      .next t := ⟨_, by simp, rfl⟩

theorem witness_StoredKeyLastsUntilReplaced : ∃ t, (∀ e ∈ [({ host := 0, event := .command 0x0C#8 } : Issued)], KeepsKey e) ∧
    (facing full (.command 0x0C#8)).pending = [{ host := 0, event := .command 0x0C#8 }] ++ [] ∧
    Host.Core.run core 1 (facing full (.command 0x0C#8)) = .next t :=
  ⟨_, by simp [KeepsKey], rfl, rfl⟩

/-- The boundary clause: a SETKEYS that succeeds from an unset key. -/
theorem witness_UnsetKeyIsUnobservable : ∃ t,
    (facing { full with kvalid := false } (.command 0x0B#8)).kvalid = false ∧
    SameButKeyWords (facing { full with kvalid := false } (.command 0x0B#8))
      (facing { full with kvalid := false, k0 := 1#64, k1 := 2#64 } (.command 0x0B#8)) ∧
    step (facing { full with kvalid := false } (.command 0x0B#8)) = .next t ∧ t.kvalid = true := ⟨_, rfl, rfl, rfl, rfl⟩

theorem witness_StepKeepsStatusLegal : ∃ t, full.StatusInv ∧ full.HostsInv ∧ step (facing full .readStatus) = .next t ∧
    (facing full .readStatus).StatusInv ∧ (facing full .readStatus).HostsInv := by
  refine ⟨_, ⟨⟨by decide, by decide, by decide⟩, ?_⟩, ?_, rfl, ⟨⟨by decide, by decide, by decide⟩, ?_⟩, ?_⟩
  · simp [full, stored, withText0, State.reset]
  · simp [State.HostsInv, full, stored, withText0, State.reset]
  · simp [facing, full, stored, withText0, State.reset]
  · simp [State.HostsInv, facing, Config.hosts]

theorem witness_StepKeepsToutCanonical : ∃ t, (facing full (.command 0x02#8)).TextInv ∧
    step (facing full (.command 0x02#8)) = .next t := ⟨_, fun t h => (by cases h), rfl⟩

theorem witness_TransportAcceptsExactlyCanonicalStrings :
    IsCanonicalString "0190f2a3-1b2c-7d4e-8f60-123456789abc".toList ∧ "invalid-uuid".toList.length ≠ 36 := by
  refine ⟨⟨by decide, fun i => ?_⟩, by decide⟩
  fin_cases i <;> simp

/-- Each clause at the boundary of a key word's range. -/
theorem witness_PseudoInstructionsExpand : (2 ^ 64 - 1 < 2 ^ 64 ∧ 0 < 2 ^ 64) ∧ (2 ^ 64 ≤ 2 ^ 64 ∨ 2 ^ 64 ≤ 0) ∧
    (2 ^ 64 ≤ 0 ∨ 2 ^ 64 ≤ 2 ^ 64) := by decide

end Sys2Proof.Tests
end

section
/-!
PROOFS. The statements on the state and its events (10_state.md): what commands, events, steps and runs keep, when a
command completes, and the text transport.
-/

namespace Sys2Proof.Machine

/-! ## One step, and runs of steps -/

/-- A step changes nothing when no event is left, and else does the event at the head of the order (R47). -/
theorem step_next_cases {s t : State} (h : step s = .next t) :
    (s.pending = [] ∧ t = s) ∨
      ∃ e rest, s.pending = e :: rest ∧ execEvent e.event { s with pending := rest } = .next t := by
  cases hp : s.pending with
  | nil => exact .inl ⟨rfl, by simpa [step_nil hp, eq_comm] using h⟩
  | cons e rest => exact .inr ⟨e, rest, rfl, step_cons hp ▸ h⟩

/-- A run of m + n steps is a run of m steps and then one of n. -/
theorem run_add_next {m n : Nat} {s t : State} (h : Host.Core.run core (m + n) s = .next t) :
    ∃ u, Host.Core.run core m s = .next u ∧ Host.Core.run core n u = .next t := by
  induction m generalizing s with
  | zero => exact ⟨s, rfl, by simpa using h⟩
  | succ m ih =>
    rw [Nat.succ_add] at h
    simp only [Host.Core.run] at h ⊢
    split at h
    · exact ih h
    · cases h
    · cases h

theorem run_one_next {s t : State} (h : Host.Core.run core 1 s = .next t) : step s = .next t := by
  simp only [Host.Core.run] at h
  split at h
  · next hs => exact hs.trans h
  · cases h
  · cases h

/-! ## What commands and events leave unchanged -/

section Command

variable {i : Instr} {w : Byte} {s t : State}

/-- No command writes an operand port (R25, R29). -/
theorem exec_sameOperands (h : exec i s = .next t) : SameOperands s t := by
  obtain ⟨e, -, rfl⟩ | ⟨b, -, rfl⟩ | ⟨v, -, rfl⟩ | ⟨v, -, rfl⟩ | ⟨v, -, rfl⟩ | ⟨a, b, -, -, -, -, rfl⟩ :=
    exec_next_cases h <;> simp [SameOperands]

/-- No command touches the events to come, what the hosts have seen or the number of resets. -/
theorem exec_sameHostSide (h : exec i s = .next t) : SameHostSide s t := by
  obtain ⟨e, -, rfl⟩ | ⟨b, -, rfl⟩ | ⟨v, -, rfl⟩ | ⟨v, -, rfl⟩ | ⟨v, -, rfl⟩ | ⟨a, b, -, -, -, -, rfl⟩ :=
    exec_next_cases h <;> simp [SameHostSide]

/-- Every command that completes leaves a legal STATUS word (R23). -/
theorem exec_legalStatus (h : exec i s = .next t) : LegalStatus t.status := by
  obtain ⟨e, -, rfl⟩ | ⟨b, -, rfl⟩ | ⟨v, -, rfl⟩ | ⟨v, -, rfl⟩ | ⟨v, -, rfl⟩ | ⟨a, b, -, -, -, -, rfl⟩ :=
    exec_next_cases h
  · exact legalStatus_error e
  · exact legalStatus_finish b
  · exact legalStatus_finish false
  · exact legalStatus_finish false
  · exact legalStatus_finish false
  · exact legalStatus_finish true

/-- A command keeps KEYREG, or is a SETKEYS that leaves a valid key (R22). -/
theorem exec_key_cases (h : exec i s = .next t) : SameKey s t ∨ (i = .setkeys ∧ t.kvalid = true) := by
  obtain ⟨e, -, rfl⟩ | ⟨b, -, rfl⟩ | ⟨v, -, rfl⟩ | ⟨v, -, rfl⟩ | ⟨v, -, rfl⟩ | ⟨a, b, rfl, -, -, -, rfl⟩ :=
    exec_next_cases h <;> simp [SameKey]

/-- A command keeps TOUT, or writes the text of some value there (R26, R82). -/
theorem exec_tout_cases (h : exec i s = .next t) : t.tout = s.tout ∨ ∃ u, t.tout = some (serializeText u) := by
  obtain ⟨e, -, rfl⟩ | ⟨b, -, rfl⟩ | ⟨v, -, rfl⟩ | ⟨v, -, rfl⟩ | ⟨v, -, rfl⟩ | ⟨a, b, -, -, -, -, rfl⟩ :=
    exec_next_cases h
  · exact .inl rfl
  · exact .inl rfl
  · exact .inl rfl
  · exact .inr ⟨v, rfl⟩
  · exact .inl rfl
  · exact .inl rfl

theorem runCommand_sameOperands (h : runCommand w s = .next t) : SameOperands s t := by
  obtain ⟨i, -, h⟩ | ⟨r, -, rfl⟩ := runCommand_next h
  · exact exec_sameOperands h
  · simp [SameOperands]

theorem runCommand_sameHostSide (h : runCommand w s = .next t) : SameHostSide s t := by
  obtain ⟨i, -, h⟩ | ⟨r, -, rfl⟩ := runCommand_next h
  · exact exec_sameHostSide h
  · simp [SameHostSide]

theorem runCommand_legalStatus (h : runCommand w s = .next t) : LegalStatus t.status := by
  obtain ⟨i, -, h⟩ | ⟨r, -, rfl⟩ := runCommand_next h
  · exact exec_legalStatus h
  · exact legalStatus_error .illegalCommand

theorem runCommand_tout_cases (h : runCommand w s = .next t) :
    t.tout = s.tout ∨ ∃ u, t.tout = some (serializeText u) := by
  obtain ⟨i, -, h⟩ | ⟨r, -, rfl⟩ := runCommand_next h
  · exact exec_tout_cases h
  · exact .inl rfl

/-- The word a command is decoded from is its own (R62, R64). -/
theorem encode_of_decode (h : decode w = .ok i) : encode i = w := by
  have key : ∀ w : Byte, ∀ i ∈ (decode w).toOption, encode i = w := by decide
  exact key w i (by simp [h, Except.toOption])

/-- A command word keeps KEYREG, or is that of SETKEYS and leaves a valid key (R22). -/
theorem runCommand_key_cases (h : runCommand w s = .next t) :
    SameKey s t ∨ (w = 0x0B#8 ∧ t.kvalid = true) := by
  obtain ⟨i, hi, h⟩ | ⟨r, -, rfl⟩ := runCommand_next h
  · obtain hk | ⟨rfl, hv⟩ := exec_key_cases h
    · exact .inl hk
    · exact .inr ⟨(encode_of_decode hi).symm, hv⟩
  · exact .inl ⟨rfl, rfl, rfl⟩

end Command

section Event

variable {e : HostEvent} {s t : State}

/-- No event touches the events that come after it. -/
theorem execEvent_pending (h : execEvent e s = .next t) : t.pending = s.pending := by
  obtain ⟨v, -, rfl⟩ | ⟨p, v, -, -, rfl⟩ | ⟨-, rfl⟩ | ⟨w, u, -, hu, rfl⟩ | ⟨-, rfl⟩ := execEvent_next h
  · simp
  · simp
  · simp
  · exact (runCommand_sameHostSide hu).1
  · simp

/-- Only a host write and a reset change an operand port (R25, R29). -/
theorem execEvent_sameOperands (h : execEvent e s = .next t) (hr : e ≠ .reset) (hw : ∀ v, e ≠ .write v) :
    SameOperands s t := by
  obtain ⟨v, he, -⟩ | ⟨p, v, -, -, rfl⟩ | ⟨-, rfl⟩ | ⟨w, u, -, hu, rfl⟩ | ⟨he, -⟩ := execEvent_next h
  · exact absurd he (hw v)
  · simp [SameOperands]
  · simp [SameOperands]
  · exact (runCommand_sameOperands hu :)
  · exact absurd he hr

/-- Every event but reset and the word of SETKEYS keeps KEYREG, and SETKEYS never clears KVALID (R22). -/
theorem execEvent_key_cases (h : execEvent e s = .next t) (hr : e ≠ .reset) :
    SameKey s t ∨ (e = .command 0x0B#8 ∧ t.kvalid = true) := by
  obtain ⟨v, -, rfl⟩ | ⟨p, v, -, -, rfl⟩ | ⟨-, rfl⟩ | ⟨w, u, rfl, hu, rfl⟩ | ⟨he, -⟩ := execEvent_next h
  · simp [SameKey]
  · simp [SameKey]
  · simp [SameKey]
  · obtain hk | ⟨rfl, hv⟩ := runCommand_key_cases hu
    · exact .inl hk
    · exact .inr ⟨rfl, hv⟩
  · exact absurd he hr

end Event

/-! ## STATUS stays legal -/

/-- What the hosts see next keeps the invariant when it is legal itself. -/
theorem statusInv_observe {o : Observation} {s : State} (hs : LegalStatus s.status)
    (hseen : ∀ o ∈ s.observed, LegalObservation o) (ho : LegalObservation o) : (observe o s).StatusInv := by
  refine ⟨hs, fun x hx => ?_⟩
  obtain hx | hx : x ∈ s.observed ∨ x = o := by simpa using hx
  · exact hseen x hx
  · exact hx ▸ ho

theorem execEvent_statusInv {e : HostEvent} {s t : State} (h : execEvent e s = .next t) (hs : s.StatusInv) :
    t.StatusInv := by
  obtain ⟨hlegal, hseen⟩ := hs
  obtain ⟨v, -, rfl⟩ | ⟨p, v, -, -, rfl⟩ | ⟨-, rfl⟩ | ⟨w, u, -, hu, rfl⟩ | ⟨-, rfl⟩ := execEvent_next h
  · exact ⟨by simpa using hlegal, by simpa using hseen⟩
  · exact statusInv_observe hlegal hseen trivial
  · exact statusInv_observe hlegal hseen hlegal
  · obtain ⟨-, hobs, -⟩ := runCommand_sameHostSide hu
    have hu := runCommand_legalStatus hu
    exact statusInv_observe hu (hobs ▸ hseen) hu
  · exact ⟨legalStatus_finish false, by simpa using hseen⟩

/-- Settles O54: each event leaves a legal STATUS word and shows only legal ones, and takes one event from the order. -/
theorem stepKeepsStatusLegal : Obligations.StepKeepsStatusLegal := by
  intro s t hs hh h
  obtain ⟨-, rfl⟩ | ⟨e, rest, hp, h⟩ := step_next_cases h
  · exact ⟨hs, hh⟩
  · refine ⟨execEvent_statusInv h hs, fun x hx => hh x ?_⟩
    rw [execEvent_pending h] at hx
    exact hp ▸ List.mem_cons_of_mem e hx

/-! ## TOUT stays canonical -/

theorem mem_hyphenPos {i : Fin 36} : i ∈ hyphenPos ↔ i.val = 8 ∨ i.val = 13 ∨ i.val = 18 ∨ i.val = 23 := by
  revert i; decide

/-- A written digit is a hex digit and no upper-case one (R80). -/
theorem lowerhex_lower (d : Nibble) : IsHexOctet (lowerhex d) ∧ ¬ IsUpperOctet (lowerhex d) := by
  revert d; decide

/-- serialize_text gives canonical text with no upper-case digit (R80, R82). -/
theorem serializeText_isLowerCanonical (u : Uuid) : IsLowerCanonical (serializeText u) := by
  constructor
  · intro i
    rw [getElem_serializeText]
    split
    · next hi => rw [if_pos (mem_hyphenPos.mpr hi)]; rfl
    · next hi => rw [if_neg (mt mem_hyphenPos.mp hi)]; exact (lowerhex_lower _).1
  · intro i
    rw [getElem_serializeText]
    split
    · decide
    · exact (lowerhex_lower _).2

theorem execEvent_tout_cases {e : HostEvent} {s t : State} (h : execEvent e s = .next t) :
    t.tout = s.tout ∨ t.tout = none ∨ ∃ u, t.tout = some (serializeText u) := by
  obtain ⟨v, -, rfl⟩ | ⟨p, v, -, -, rfl⟩ | ⟨-, rfl⟩ | ⟨w, u, -, hu, rfl⟩ | ⟨-, rfl⟩ := execEvent_next h
  · simp
  · simp
  · simp
  · exact (runCommand_tout_cases hu).imp_right .inr
  · simp

/-- Settles O55: an event keeps TOUT, clears it, or writes the output of serialize_text there. -/
theorem stepKeepsToutCanonical : Obligations.StepKeepsToutCanonical := by
  intro s t hs h x hx
  obtain ⟨-, rfl⟩ | ⟨e, rest, -, h⟩ := step_next_cases h
  · exact hs x hx
  · obtain ht | ht | ⟨u, ht⟩ := execEvent_tout_cases h
    · exact hs x (ht ▸ hx)
    · simp [ht] at hx
    · obtain rfl : serializeText u = x := by simpa [ht] using hx
      exact serializeText_isLowerCanonical u

/-! ## KEYREG and the operand ports -/

/-- Settles O33: by what an event can do to KEYREG. -/
theorem keyWrittenOnlyBySetkeysAndReset : Obligations.KeyWrittenOnlyBySetkeysAndReset := by
  intro s t e rest hp h
  rw [step_cons hp] at h
  constructor
  · rintro ⟨hr, hk⟩
    exact (execEvent_key_cases h hr).resolve_right fun hset => hk hset.1
  · intro hr hv
    obtain ⟨-, -, hk⟩ | ⟨-, hk⟩ := execEvent_key_cases h hr
    · exact hk.trans hv
    · exact hk

/-- Settles O34: by what an event can do to the operand ports. -/
theorem operandPortsChangedOnlyByHost : Obligations.OperandPortsChangedOnlyByHost := by
  intro s t e rest hp h hr hw
  rw [step_cons hp] at h
  exact (execEvent_sameOperands h hr hw :)

/-! ## When a command completes -/

/-- The result is a completion when the condition holds, and otherwise a fault naming a port that is unwritten in s (R30). -/
def CompletesIff (ready : Prop) (s : State) (r : Result) : Prop :=
  (ready → ∃ t, r = .next t) ∧ (¬ ready → ∃ p, r = .fault (.unwrittenPort p) ∧ portValue p s = none)

section CompletesIff

variable {s t : State} {P Q : Prop}

theorem CompletesIff.congr {r : Result} (h : CompletesIff P s r) (hPQ : Q ↔ P) : CompletesIff Q s r :=
  ⟨fun hq => h.1 (hPQ.mp hq), fun hq => h.2 (mt hPQ.mpr hq)⟩

theorem completesIff_finish (b : Bool) : CompletesIff True s (finish b t) :=
  ⟨fun _ => ⟨_, rfl⟩, fun h => absurd trivial h⟩

theorem completesIff_raiseError (e : ErrCode) : CompletesIff True s (raiseError e t) :=
  ⟨fun _ => ⟨_, rfl⟩, fun h => absurd trivial h⟩

/-- A command that reads a port completes when the port is written and what follows completes. -/
theorem completesIff_withOperand {α : Type} {p : Port} {v : Option α} {k : α → Result} {R : α → Prop}
    {f : α → PortVal} (hp : portValue p s = v.map f) (hk : ∀ a, CompletesIff (R a) s (k a)) :
    CompletesIff (∃ a, v = some a ∧ R a) s (withOperand p v k) := by
  cases v with
  | none => exact ⟨by simp, fun _ => ⟨p, rfl, hp⟩⟩
  | some a => exact (hk a).congr (by simp)

theorem completesIff_withOperand_isSome {α : Type} {p : Port} {v : Option α} {k : α → Result}
    {f : α → PortVal} (hp : portValue p s = v.map f) (hk : ∀ a, CompletesIff P s (k a)) :
    CompletesIff (v.isSome ∧ P) s (withOperand p v k) :=
  (completesIff_withOperand hp hk).congr (by simp [Option.isSome_iff_exists])

/-- The text operand is readable exactly when TextGives names its value. -/
theorem completesIff_withText {k : Option Uuid → Result} {R : Option Uuid → Prop}
    (hk : ∀ r, CompletesIff (R r) s (k r)) : CompletesIff (∃ r, TextGives s r ∧ R r) s (withText s k) := by
  by_cases h : ∃ r, TextGives s r
  · obtain ⟨r, hr⟩ := h
    rw [withText_of_gives hr]
    refine (hk r).congr ⟨?_, fun h => ⟨r, hr, h⟩⟩
    rintro ⟨r', hr', h⟩
    exact textGives_unique hr hr' ▸ h
  · refine ⟨fun ⟨r, hr, _⟩ => absurd ⟨r, hr⟩ h, fun _ => ?_⟩
    cases hn : s.tlen with
    | none => exact ⟨.tlen, by simp [withText, hn], by simp [portValue, hn]⟩
    | some n =>
      by_cases h36 : n = 36#32
      · cases ht : s.tin with
        | none => exact ⟨.tin, by simp [withText, hn, ht, h36], by simp [portValue, ht]⟩
        | some x => exact absurd ⟨_, .inr ⟨x, h36 ▸ hn, ht, rfl⟩⟩ h
      · exact absurd ⟨none, .inl ⟨n, hn, h36, rfl⟩⟩ h

/-- A command that reads the text operand alone. -/
theorem completesIff_withText_only {k : Option Uuid → Result} (hk : ∀ r, CompletesIff True s (k r)) :
    CompletesIff (∃ r, TextGives s r) s (withText s k) :=
  (completesIff_withText hk).congr (by simp)

theorem completesIff_withExplicitKey_and {k : Word → Word → Result} (hk : ∀ a b, CompletesIff P s (k a b)) :
    CompletesIff (KeyPortsWritten s ∧ P) s (withExplicitKey s k) :=
  (completesIff_withOperand_isSome rfl fun a => completesIff_withOperand_isSome rfl (hk a)).congr and_assoc

theorem completesIff_withExplicitKey {k : Word → Word → Result} (hk : ∀ a b, CompletesIff True s (k a b)) :
    CompletesIff (KeyPortsWritten s) s (withExplicitKey s k) :=
  (completesIff_withExplicitKey_and hk).congr (by simp)

variable {check : Uuid → Option ErrCode} {value : Word → Word → Uuid → Uuid}

/-- The key is read only when the check passed (R12, R124). -/
theorem completesIff_runBinary :
    CompletesIff (∃ u, s.uin = some u ∧ (check u = none → KeyPortsWritten s)) s (runBinary check value s) := by
  refine completesIff_withOperand rfl fun u => ?_
  split
  · next e he => exact (completesIff_raiseError e).congr (by simp [he])
  · next hc => exact (completesIff_withExplicitKey fun _ _ => completesIff_finish false).congr (by simp [hc])

/-- The key, whatever condition its reading has, is read only when parse and check passed (R12, R126). -/
theorem completesIff_runText {key : (Word → Word → Result) → Result}
    (hkey : ∀ k, (∀ a b, CompletesIff True s (k a b)) → CompletesIff P s (key k)) :
    CompletesIff (∃ r, TextGives s r ∧ ∀ u, r = some u → check u = none → P) s (runText check value key s) := by
  refine completesIff_withText fun r => ?_
  cases r with
  | none => exact (completesIff_raiseError .invalidFormat).congr (by simp)
  | some u =>
    simp only
    split
    · next e he => exact (completesIff_raiseError e).congr (by simp [he])
    · next hc => exact (hkey _ fun _ _ => completesIff_finish false).congr (by simp [hc])

theorem completesIff_ifKeySet {r : Result} (h : CompletesIff P s r) :
    CompletesIff (s.kvalid = true → P) s (ifKeySet s r) := by
  unfold ifKeySet
  split
  · next hv => exact h.congr (by simp [hv])
  · next hv => exact (completesIff_raiseError .keysNotSet).congr (by simp [hv])

/-- The text path with the stored key reads no key port. -/
theorem completesIff_runText_stored :
    CompletesIff (∃ r, TextGives s r) s (runText check value (withStoredKey s) s) :=
  (completesIff_runText (P := True) fun _ hk => hk s.k0 s.k1).congr (by simp)

/-- A command completes when it is ready, and otherwise faults on an unwritten port (R30, R62). -/
theorem completesIff_exec (i : Instr) (s : State) : CompletesIff (Ready i s) s (exec i s) := by
  cases i with
  | parse =>
    simp only [exec, execParse]
    refine completesIff_withText_only fun r => ?_
    cases r with
    | none => exact completesIff_raiseError .invalidFormat
    | some u => exact completesIff_finish false
  | serialize => exact (completesIff_withOperand_isSome rfl fun _ => completesIff_finish false).congr (by simp [Ready])
  | validate => exact completesIff_withText_only fun _ => completesIff_finish _
  | mask =>
    refine (completesIff_withExplicitKey_and fun _ _ =>
      completesIff_withOperand_isSome rfl fun _ => completesIff_finish false).congr ?_
    simp [Ready]
  | xorts =>
    refine (completesIff_withOperand_isSome rfl fun _ =>
      completesIff_withOperand_isSome rfl fun _ => completesIff_finish false).congr ?_
    simp [Ready]
  | setver =>
    refine (completesIff_withOperand_isSome rfl fun _ =>
      completesIff_withOperand_isSome rfl fun _ => completesIff_finish false).congr ?_
    simp [Ready]
  | encb => exact completesIff_runBinary.congr (by simp only [Ready, encCheck_eq_none])
  | decb => exact completesIff_runBinary.congr (by simp only [Ready, decCheck_eq_none])
  | encf =>
    exact (completesIff_runText fun _ => completesIff_withExplicitKey).congr (by simp only [Ready, encCheck_eq_none])
  | decf =>
    exact (completesIff_runText fun _ => completesIff_withExplicitKey).congr (by simp only [Ready, decCheck_eq_none])
  | setkeys =>
    refine completesIff_withOperand rfl fun p => ?_
    split
    · next h3 => exact (completesIff_raiseError .missingKeyArgument).congr (by simp [h3])
    · next h3 =>
      exact (completesIff_withExplicitKey fun _ _ => completesIff_finish true).congr (by simp [not_not.mp h3])
  | haskeys => exact completesIff_finish _
  | enc => exact completesIff_ifKeySet completesIff_runText_stored
  | dec => exact completesIff_ifKeySet completesIff_runText_stored

end CompletesIff

/-- Settles O27: by following the reads of each command in their order. -/
theorem completesExactlyWhenReady : Obligations.CompletesExactlyWhenReady := completesIff_exec

/-! ## Which unwritten port the fault names -/

section Fault

variable {s : State} {p : Port}

/-- TLEN is read first, and TIN only when TLEN is 36 (R25, R80). -/
theorem withText_fault {k : Option Uuid → Result}
    (h : (p = .tlen ∧ s.tlen = none) ∨ (p = .tin ∧ s.tlen = some 36#32 ∧ s.tin = none)) :
    withText s k = .fault (.unwrittenPort p) := by
  obtain ⟨rfl, hn⟩ | ⟨rfl, hn, ht⟩ := h
  · simp [withText, hn]
  · simp [withText, hn, ht]

theorem runText_fault {check : Uuid → Option ErrCode} {value : Word → Word → Uuid → Uuid}
    {key : (Word → Word → Result) → Result}
    (h : (p = .tlen ∧ s.tlen = none) ∨ (p = .tin ∧ s.tlen = some 36#32 ∧ s.tin = none)) :
    runText check value key s = .fault (.unwrittenPort p) :=
  withText_fault h

theorem ifKeySet_of_kvalid (h : s.kvalid = true) (r : Result) : ifKeySet s r = r := if_pos h

/-- One key port unwritten: the fault names it. -/
theorem withExplicitKey_fault {k : Word → Word → Result}
    (h : (p = .kin0 ∧ s.kin0 = none ∧ s.kin1.isSome) ∨ (p = .kin1 ∧ s.kin0.isSome ∧ s.kin1 = none)) :
    withExplicitKey s k = .fault (.unwrittenPort p) := by
  obtain ⟨rfl, h0, -⟩ | ⟨rfl, h0, h1⟩ := h
  · simp [withExplicitKey, h0]
  · obtain ⟨a, h0⟩ := Option.isSome_iff_exists.mp h0
    simp [withExplicitKey, h0, h1]

end Fault

/-- Settles O25: all six commands begin with the text operand, ENC and DEC once a key is stored. -/
theorem unwrittenTextPortFaults : Obligations.UnwrittenTextPortFaults := by
  intro s i p hp hi
  obtain hi | ⟨hi, hv⟩ := hi
  · simp only [List.mem_cons, List.not_mem_nil, or_false] at hi
    obtain rfl | rfl | rfl | rfl := hi
    · simp only [exec, execParse]; exact withText_fault hp
    · simp only [exec, execValidate]; exact withText_fault hp
    · exact runText_fault hp
    · exact runText_fault hp
  · simp only [List.mem_cons, List.not_mem_nil, or_false] at hi
    obtain rfl | rfl := hi
    · exact (ifKeySet_of_kvalid hv _).trans (runText_fault hp)
    · exact (ifKeySet_of_kvalid hv _).trans (runText_fault hp)

/-- Settles O26: by which operand each command reads first, and for the key ports by withExplicitKey_fault. -/
theorem unwrittenOperandPortFaults : Obligations.UnwrittenOperandPortFaults := by
  intro s
  refine ⟨fun hu i hi => ?_, fun hu _ => ?_, fun hu _ => ?_, fun hu hm => ?_, fun hu hv => ?_, fun h0 h1 hn => ?_,
    fun p hp => ⟨fun _ => ?_, fun hk => ?_, fun u hu h7 => ?_, fun u hu hv => ?_, fun u hu h7 => ?_, fun u hu hv => ?_⟩⟩
  · simp only [List.mem_cons, List.not_mem_nil, or_false] at hi
    obtain rfl | rfl := hi
    · simp [exec, execEncb, runBinary, hu]
    · simp [exec, execDecb, runBinary, hu]
  · simp [exec, execXorts, hu]
  · simp [exec, execSetver, hu]
  · obtain ⟨u, hu⟩ := Option.isSome_iff_exists.mp hu
    simp [exec, execXorts, hu, hm]
  · obtain ⟨u, hu⟩ := Option.isSome_iff_exists.mp hu
    simp [exec, execSetver, hu, hv]
  · obtain ⟨a, h0⟩ := Option.isSome_iff_exists.mp h0
    obtain ⟨b, h1⟩ := Option.isSome_iff_exists.mp h1
    simp [exec, execMask, withExplicitKey, h0, h1, hn]
  · exact withExplicitKey_fault hp
  · simp [exec, execSetkeys, hk, withExplicitKey_fault hp]
  · simp [exec, execEncb, runBinary, hu, encCheck_eq_none.mpr h7, withExplicitKey_fault hp]
  · simp [exec, execDecb, runBinary, hu, decCheck_eq_none.mpr hv, withExplicitKey_fault hp]
  · exact (runText_of_ok hu (encCheck_eq_none.mpr h7)).trans (withExplicitKey_fault hp)
  · exact (runText_of_ok hu (decCheck_eq_none.mpr hv)).trans (withExplicitKey_fault hp)

/-! ## Host writes and reads -/

/-- Settles O5: the event at the head of the order is the write itself. -/
theorem hostWriteChangesOneOperandPort : Obligations.HostWriteChangesOneOperandPort := by
  intro s h v rest hp
  simp only [step_cons hp, execEvent]
  refine ⟨?_, ?_, ?_, ?_, ?_, ?_, ?_, ?_, ?_⟩ <;> rintro x rfl <;> rfl

theorem hostRead_of_some {p : Port} {s : State} {v : PortVal} (h : portValue p s = some v) :
    hostRead p s = .next (observe (.port v) s) := by
  simp [hostRead, h]

theorem hostRead_of_none {p : Port} {s : State} (h : portValue p s = none) :
    hostRead p s = .fault (.unwrittenPort p) := by
  simp [hostRead, h]

/-- Settles O6: by the value of the port read. -/
theorem hostReadShowsValueAndChangesNothing : Obligations.HostReadShowsValueAndChangesNothing := by
  constructor
  · intro s h rest e o hp he
    rw [step_cons hp]
    have read : ∀ p v, e = .read p → o = .port v → portValue p { s with pending := rest } = some v →
        execEvent e { s with pending := rest } = .next { s with pending := rest, observed := s.observed ++ [o] } := by
      rintro p v rfl rfl hv
      exact hostRead_of_some hv
    obtain ⟨rfl, rfl⟩ | ⟨v, he, hv, ho⟩ | ⟨v, he, hv, ho⟩ | ⟨v, he, hv, ho⟩ | ⟨v, he, hv, ho⟩ | ⟨v, he, hv, ho⟩ |
      ⟨v, he, hv, ho⟩ | ⟨v, he, hv, ho⟩ | ⟨v, he, hv, ho⟩ | ⟨v, he, hv, ho⟩ | ⟨v, he, hv, ho⟩ | ⟨v, he, hv, ho⟩ |
      ⟨v, he, hv, ho⟩ := he
    · rfl
    all_goals exact read _ _ he ho (by simp [portValue, hv])
  · intro s h rest p hp hn
    rw [step_cons hp]
    obtain ⟨rfl, hn⟩ | ⟨rfl, hn⟩ | ⟨rfl, hn⟩ := hn <;> exact hostRead_of_none (by simp [portValue, hn])

/-! ## Reading an operand port back -/

theorem portValue_writeOperand_same (v : OperandVal) (s : State) :
    portValue (portOf v) (writeOperand v s) = some (.operand v) := by
  cases v <;> rfl

theorem portValue_writeOperand_of_ne {x : OperandVal} {p : Port} (h : portOf x ≠ p) (s : State) :
    portValue p (writeOperand x s) = portValue p s := by
  cases x <;> cases p <;> simp_all [portOf, portValue, writeOperand]

@[simp] theorem portValue_pending (p : Port) (s : State) (l : List Issued) :
    portValue p { s with pending := l } = portValue p s := by
  cases p <;> rfl

/-- The value of an operand port depends on the operand ports alone. -/
theorem portValue_portOf_of_sameOperands {s t : State} (h : SameOperands s t) (v : OperandVal) :
    portValue (portOf v) t = portValue (portOf v) s := by
  obtain ⟨htlen, htin, huin, hkin0, hkin1, hkpres, hnin, hmin, hvin⟩ := h
  cases v <;> simp [portOf, portValue, *]

/-- The event neither resets the block nor writes the port of v. -/
def KeepsPortOf (v : OperandVal) (e : Issued) : Prop :=
  e.event ≠ .reset ∧ ∀ x, portOf x = portOf v → e.event ≠ .write x

theorem execEvent_portValue {v : OperandVal} {e : Issued} {s t : State} (he : KeepsPortOf v e)
    (h : execEvent e.event s = .next t) : portValue (portOf v) t = portValue (portOf v) s := by
  obtain ⟨hr, hw⟩ := he
  by_cases hx : ∃ x, e.event = .write x
  · obtain ⟨x, hx⟩ := hx
    obtain rfl : writeOperand x s = t := by simpa [hx, execEvent] using h
    exact portValue_writeOperand_of_ne (fun hp => hw x hp hx) s
  · exact portValue_portOf_of_sameOperands (execEvent_sameOperands h hr (not_exists.mp hx)) v

/-- A property that every event of a kind keeps holds after a run of such events, and the run leaves the events behind
them. -/
theorem run_invariant {K : Issued → Prop} {P : State → Prop}
    (hP : ∀ (e : Issued) (s t : State), K e → execEvent e.event s = .next t → P s → P t)
    (hpending : ∀ (s : State) (l : List Issued), P s → P { s with pending := l })
    {es rest : List Issued} {s t : State} (hes : ∀ e ∈ es, K e) (hp : s.pending = es ++ rest)
    (h : Host.Core.run core es.length s = .next t) (hs : P s) : P t ∧ t.pending = rest := by
  induction es generalizing s with
  | nil =>
    obtain rfl : s = t := Host.Outcome.next.inj h
    exact ⟨hs, hp⟩
  | cons e es ih =>
    obtain ⟨u, hu, h⟩ := run_add_next (m := 1) (by simpa [Nat.add_comm] using h)
    have hu := step_cons hp ▸ run_one_next hu
    exact ih (fun x hx => hes x (List.mem_cons_of_mem e hx)) (execEvent_pending hu) h
      (hP e _ u (hes e List.mem_cons_self) hu (hpending s _ hs))

/-- Settles O51: the write gives the port its value, the events between keep it, and the read shows it. -/
theorem operandPortReadsBackLastWrite : Obligations.OperandPortReadsBackLastWrite := by
  intro es rest s t h h' v hes hp hrun
  obtain ⟨w, hrun, hread⟩ := run_add_next (m := es.length + 1) (n := 1) hrun
  obtain ⟨u, hwrite, hrun⟩ := run_add_next (m := 1) (n := es.length) (by simpa [Nat.add_comm] using hrun)
  have hwrite := step_cons hp ▸ run_one_next hwrite
  obtain rfl := Host.Outcome.next.inj hwrite
  obtain ⟨hv, hpw⟩ := run_invariant (K := KeepsPortOf v) (P := fun s => portValue (portOf v) s = some (.operand v))
    (fun e a b he hab ha => (execEvent_portValue he hab).trans ha) (fun a l ha => (portValue_pending _ a l).trans ha)
    hes (writeOperand_pending _ v) hrun (portValue_writeOperand_same v _)
  have hread := step_cons hpw ▸ run_one_next hread
  rw [execEvent, hostRead_of_some ((portValue_pending _ w rest).trans hv)] at hread
  obtain rfl := Host.Outcome.next.inj hread
  exact ⟨w.observed, rfl⟩

/-! ## Two states run side by side -/

/-- Two results agree: both complete, in related states, or both stop for the same reason. -/
def ResultRel (R : State → State → Prop) (r r' : Result) : Prop :=
  match r with
  | .next t => ∃ t', r' = .next t' ∧ R t t'
  | .fault f => r' = .fault f
  | .refused x => r' = .refused x

/-- The states agree in all that a command reads: the operand ports, KVALID, and the stored key if there is one (R172). -/
structure SameInputs (s s' : State) : Prop where
  operands : SameOperands s s'
  kvalid : s'.kvalid = s.kvalid
  key : s.kvalid = true → s'.k0 = s.k0 ∧ s'.k1 = s.k1

/-- Whatever a command writes at its end, written to both states, leaves them related. -/
structure RelatedByWrites (R : State → State → Prop) (s s' : State) : Prop where
  status : ∀ x, R (s.setStatus x) (s'.setStatus x)
  uout : ∀ v x, R ((s.writeUout v).setStatus x) ((s'.writeUout v).setStatus x)
  tout : ∀ v x, R ((s.writeTout v).setStatus x) ((s'.writeTout v).setStatus x)
  mout : ∀ v x, R ((s.writeMout v).setStatus x) ((s'.writeMout v).setStatus x)
  key : ∀ a b x, R ((s.storeKey a b).setStatus x) ((s'.storeKey a b).setStatus x)

section ResultRel

variable {R : State → State → Prop} {s s' : State}

theorem resultRel_next {t t' : State} (h : R t t') : ResultRel R (.next t) (.next t') := ⟨t', rfl, h⟩

theorem resultRel_withOperand {α : Type} {p : Port} {v v' : Option α} {k k' : α → Result} (hv : v' = v)
    (h : ∀ a, ResultRel R (k a) (k' a)) : ResultRel R (withOperand p v k) (withOperand p v' k') := by
  subst hv
  cases v' with
  | none => rfl
  | some a => exact h a

section Inputs

variable (hs : SameInputs s s')
include hs

theorem resultRel_withText {k k' : Option Uuid → Result} (h : ∀ r, ResultRel R (k r) (k' r)) :
    ResultRel R (withText s k) (withText s' k') := by
  obtain ⟨htlen, htin, -⟩ := hs.operands
  refine resultRel_withOperand htlen fun n => ?_
  split
  · exact resultRel_withOperand htin fun t => h _
  · exact h none

theorem resultRel_withExplicitKey {k k' : Word → Word → Result} (h : ∀ a b, ResultRel R (k a b) (k' a b)) :
    ResultRel R (withExplicitKey s k) (withExplicitKey s' k') := by
  obtain ⟨-, -, -, hkin0, hkin1, -⟩ := hs.operands
  exact resultRel_withOperand hkin0 fun a => resultRel_withOperand hkin1 fun b => h a b

variable (hR : RelatedByWrites R s s')
include hR

variable {check : Uuid → Option ErrCode} {value : Word → Word → Uuid → Uuid}

theorem resultRel_runBinary : ResultRel R (runBinary check value s) (runBinary check value s') := by
  obtain ⟨-, -, huin, -⟩ := hs.operands
  refine resultRel_withOperand huin fun u => ?_
  split
  · exact resultRel_next (hR.status _)
  · exact resultRel_withExplicitKey hs fun a b => resultRel_next (hR.uout _ _)

theorem resultRel_runText {key key' : (Word → Word → Result) → Result}
    (hkey : ∀ k k', (∀ a b, ResultRel R (k a b) (k' a b)) → ResultRel R (key k) (key' k')) :
    ResultRel R (runText check value key s) (runText check value key' s') := by
  refine resultRel_withText hs fun r => ?_
  cases r with
  | none => exact resultRel_next (hR.status _)
  | some u =>
    simp only
    split
    · exact resultRel_next (hR.status _)
    · exact hkey _ _ fun a b => resultRel_next (hR.tout _ _)

/-- ENC and DEC look at the key words only where KVALID is 1 (R152, R153). -/
theorem resultRel_ifKeySet_runText :
    ResultRel R (ifKeySet s (runText check value (withStoredKey s) s))
      (ifKeySet s' (runText check value (withStoredKey s') s')) := by
  unfold ifKeySet
  rw [hs.kvalid]
  split
  · next hv =>
    obtain ⟨hk0, hk1⟩ := hs.key hv
    exact resultRel_runText hs hR fun k k' h => by simpa [hk0, hk1] using h s.k0 s.k1
  · exact resultRel_next (hR.status _)

/-- What a command does depends on its inputs alone: on states that agree in them it writes the same, or stops alike. -/
theorem resultRel_exec (i : Instr) : ResultRel R (exec i s) (exec i s') := by
  obtain ⟨-, -, huin, -, -, hkpres, hnin, hmin, hvin⟩ := hs.operands
  cases i with
  | parse =>
    simp only [exec, execParse]
    refine resultRel_withText hs fun r => ?_
    cases r with
    | none => exact resultRel_next (hR.status _)
    | some u => exact resultRel_next (hR.uout _ _)
  | serialize => exact resultRel_withOperand huin fun u => resultRel_next (hR.tout _ _)
  | validate =>
    simp only [exec, execValidate]
    exact resultRel_withText hs fun r => resultRel_next (hR.status _)
  | mask =>
    exact resultRel_withExplicitKey hs fun a b => resultRel_withOperand hnin fun n => resultRel_next (hR.mout _ _)
  | xorts => exact resultRel_withOperand huin fun u => resultRel_withOperand hmin fun m => resultRel_next (hR.uout _ _)
  | setver => exact resultRel_withOperand huin fun u => resultRel_withOperand hvin fun v => resultRel_next (hR.uout _ _)
  | encb => exact resultRel_runBinary hs hR
  | decb => exact resultRel_runBinary hs hR
  | encf => exact resultRel_runText hs hR fun k k' => resultRel_withExplicitKey hs
  | decf => exact resultRel_runText hs hR fun k k' => resultRel_withExplicitKey hs
  | setkeys =>
    refine resultRel_withOperand hkpres fun p => ?_
    split
    · exact resultRel_next (hR.status _)
    · exact resultRel_withExplicitKey hs fun a b => resultRel_next (hR.key _ _ _)
  | haskeys =>
    simp only [exec, execHaskeys, hs.kvalid]
    exact resultRel_next (hR.status _)
  | enc => exact resultRel_ifKeySet_runText hs hR
  | dec => exact resultRel_ifKeySet_runText hs hR

/-- The same of any command word, legal or not. -/
theorem resultRel_runCommand (w : Byte) : ResultRel R (runCommand w s) (runCommand w s') := by
  unfold runCommand
  split
  · exact resultRel_exec hs hR _
  · exact resultRel_next (hR.status _)

end Inputs

end ResultRel

/-! ## The key words while no key is stored -/

/-- The states differ at most in K0 and K1, and in those only while KVALID is 0. -/
def SameButUnsetKey (s s' : State) : Prop := SameButKeyWords s s' ∧ (s.kvalid = true → s' = s)

section SameButUnsetKey

variable {s s' : State}

theorem SameButUnsetKey.eq_update (h : SameButUnsetKey s s') : s' = { s with k0 := s'.k0, k1 := s'.k1 } := h.1

/-- An update that neither reads nor writes KEYREG keeps the relation. -/
theorem SameButUnsetKey.map {f : State → State} (hkv : ∀ t, (f t).kvalid = t.kvalid)
    (hf : ∀ (t : State) (a b : Word), f { t with k0 := a, k1 := b } = { f t with k0 := a, k1 := b })
    (h : SameButUnsetKey s s') : SameButUnsetKey (f s) (f s') := by
  obtain ⟨hw, hk⟩ := h
  refine ⟨?_, fun hv => congrArg f (hk (hkv s ▸ hv))⟩
  have hfs : f s' = { f s with k0 := s'.k0, k1 := s'.k1 } := (congrArg f hw).trans (hf s _ _)
  simp [SameButKeyWords, hfs]

theorem SameButUnsetKey.refl (s : State) : SameButUnsetKey s s := ⟨rfl, fun _ => rfl⟩

theorem SameButUnsetKey.sameInputs (h : SameButUnsetKey s s') : SameInputs s s' := by
  refine ⟨?_, (congrArg State.kvalid h.eq_update :), fun hv => by simp [h.2 hv]⟩
  rw [h.eq_update]
  simp [SameOperands]

theorem SameButUnsetKey.relatedByWrites (h : SameButUnsetKey s s') : RelatedByWrites SameButUnsetKey s s' where
  status x := h.map (f := (·.setStatus x)) (fun _ => rfl) fun _ _ _ => rfl
  uout v x := h.map (f := fun t => (t.writeUout v).setStatus x) (fun _ => rfl) fun _ _ _ => rfl
  tout v x := h.map (f := fun t => (t.writeTout v).setStatus x) (fun _ => rfl) fun _ _ _ => rfl
  mout v x := h.map (f := fun t => (t.writeMout v).setStatus x) (fun _ => rfl) fun _ _ _ => rfl
  key a b x := by
    rw [show (s'.storeKey a b).setStatus x = (s.storeKey a b).setStatus x from
      congrArg (fun t => (t.storeKey a b).setStatus x) h.eq_update]
    exact .refl _

theorem SameButUnsetKey.observe (h : SameButUnsetKey s s') (o : Observation) :
    SameButUnsetKey (observe o s) (observe o s') :=
  h.map (f := Machine.observe o) (fun _ => rfl) fun _ _ _ => rfl

theorem SameButUnsetKey.status_eq (h : SameButUnsetKey s s') : s'.status = s.status := (congrArg State.status h.eq_update :)

theorem SameButUnsetKey.portValue_eq (h : SameButUnsetKey s s') (p : Port) : portValue p s' = portValue p s := by
  rw [h.eq_update]
  cases p <;> rfl

theorem resultRel_recordStatus {r r' : Result} (h : ResultRel SameButUnsetKey r r') :
    ResultRel SameButUnsetKey (recordStatus r) (recordStatus r') := by
  cases r with
  | next t =>
    obtain ⟨t', rfl, ht⟩ := h
    refine resultRel_next ?_
    rw [ht.status_eq]
    exact ht.observe _
  | fault f => exact congrArg recordStatus h
  | refused x => exact congrArg recordStatus h

theorem resultRel_execEvent (h : SameButUnsetKey s s') (e : HostEvent) :
    ResultRel SameButUnsetKey (execEvent e s) (execEvent e s') := by
  cases e with
  | write v =>
    exact resultRel_next (h.map (f := writeOperand v) (fun t => writeOperand_kvalid t v)
      fun _ _ _ => by cases v <;> rfl)
  | read p =>
    simp only [execEvent, hostRead, h.portValue_eq p]
    split
    · exact resultRel_next (h.observe _)
    · rfl
  | readStatus =>
    simp only [execEvent, h.status_eq]
    exact resultRel_next (h.observe _)
  | command w => exact resultRel_recordStatus (resultRel_runCommand h.sameInputs h.relatedByWrites w)
  | reset =>
    refine resultRel_next ?_
    rw [show resetBlock s' = resetBlock s from (congrArg resetBlock h.eq_update :)]
    exact .refl _

theorem resultRel_step (h : SameButUnsetKey s s') : ResultRel SameButUnsetKey (step s) (step s') := by
  have hpending : s'.pending = s.pending := (congrArg State.pending h.eq_update :)
  cases hp : s.pending with
  | nil =>
    rw [step_nil hp, step_nil (hpending.trans hp)]
    exact resultRel_next h
  | cons e rest =>
    rw [step_cons hp, step_cons (hpending.trans hp)]
    exact resultRel_execEvent (h.map (f := fun t => { t with pending := rest }) (fun _ => rfl) fun _ _ _ => rfl) e.event

end SameButUnsetKey

/-- Settles O53: two states that differ in an unset key alone step to two such states. -/
theorem unsetKeyIsUnobservable : Obligations.UnsetKeyIsUnobservable := by
  intro s s' hv hs
  have h := resultRel_step ⟨hs, fun hv' => absurd (hv.symm.trans hv') Bool.false_ne_true⟩
  constructor
  · intro t ht
    rw [ht] at h
    obtain ⟨t', ht', hrel, hset⟩ := h
    exact ⟨t', ht', hrel, hset⟩
  · intro f hf
    rw [hf] at h
    exact h

/-! ## The fields of a value -/

/-- Settles O42: each field is a quotient and remainder of the value, which add up. -/
theorem fieldsTileTheValue : Obligations.FieldsTileTheValue := by
  intro u
  have hu := u.isLt
  simp only [ts, ver, randA, variant, randB, timeHi, timeMid, byteAt, BitVec.extractLsb'_toNat,
    Nat.shiftRight_eq_div_pow]
  refine ⟨?_, ?_, ?_⟩ <;> omega

/-! ## The text transport -/

theorem hexval_isSome (c : Byte) : (hexval c).isSome ↔ IsHexOctet c := by
  revert c; decide

theorem mem_hexPos {i : Fin 36} : i ∈ hexPos ↔ ¬ (i.val = 8 ∨ i.val = 13 ∨ i.val = 18 ∨ i.val = 23) := by
  revert i; decide

/-- Past the length check, exactly canonical text parses (R80). -/
theorem parseChars_isSome (t : Text) : (parseChars t).isSome ↔ IsCanonical t := by
  have hdigits : (textDigits t).isSome ↔ ∀ i ∈ hexPos, IsHexOctet t[i] := by
    simp only [textDigits, mapM_isSome, hexval_isSome]
  have hhyphens : hyphensOk t = true ↔ ∀ i ∈ hyphenPos, t[i] = 0x2D#8 := by
    simp [hyphensOk, hyphen]
  have hparts : (parseChars t).isSome ↔ hyphensOk t = true ∧ (textDigits t).isSome := by
    unfold parseChars; split <;> simp [*]
  rw [hparts, hdigits, hhyphens]
  simp only [mem_hexPos, mem_hyphenPos]
  constructor
  · rintro ⟨hy, hd⟩ i
    split
    · next hi => exact hy i hi
    · next hi => exact hd i hi
  · intro h
    exact ⟨fun i hi => by simpa [hi] using h i, fun i hi => by simpa [hi] using h i⟩

theorem textLength_eq_thirtySix {n : Nat} : textLength n = 36#32 ↔ n = 36 := by
  unfold textLength
  split
  · rw [BitVec.toNat_eq, BitVec.toNat_ofNat, BitVec.toNat_ofNat]; omega
  · next h => simp; omega

/-- A character is known by its number, which charOctet keeps up to 0x7F. -/
theorem toNat_charOctet (c : Char) : (charOctet c).toNat = if c.toNat ≤ 0x7F then c.toNat else 0xFF := by
  unfold charOctet
  split
  · rw [BitVec.toNat_ofNat]; omega
  · rfl

theorem charOctet_eq_hyphen {c : Char} : charOctet c = 0x2D#8 ↔ c = '-' := by
  rw [BitVec.toNat_eq, toNat_charOctet, ← Char.toNat_inj]
  show _ = 45 ↔ _ = 45
  split <;> omega

theorem charOctet_isHex {c : Char} :
    IsHexOctet (charOctet c) ↔ ('0' ≤ c ∧ c ≤ '9') ∨ ('A' ≤ c ∧ c ≤ 'F') ∨ ('a' ≤ c ∧ c ≤ 'f') := by
  simp only [IsHexOctet, BitVec.le_def, toNat_charOctet, Char.le_def, UInt32.le_iff_toNat_le]
  show ((48 ≤ _ ∧ _ ≤ 57) ∨ (65 ≤ _ ∧ _ ≤ 70) ∨ (97 ≤ _ ∧ _ ≤ 102)) ↔
    ((48 ≤ c.toNat ∧ c.toNat ≤ 57) ∨ (65 ≤ c.toNat ∧ c.toNat ≤ 70) ∨ (97 ≤ c.toNat ∧ c.toNat ≤ 102))
  split <;> omega

theorem textOfChars_of_length_ne {cs : List Char} (h : cs.length ≠ 36) : textOfChars cs = none := dif_neg h

/-- Character i of the text is that of the string (R28). -/
theorem textOfChars_of_length {cs : List Char} (h : cs.length = 36) :
    ∃ t, textOfChars cs = some t ∧ ∀ i : Fin 36, ∃ c, cs[i.val]? = some c ∧ t[i] = charOctet c :=
  ⟨_, dif_pos h, fun i => ⟨cs[i.val]'(by omega), List.getElem?_eq_getElem _, by simp⟩⟩

/-- Of 36 characters, the text is canonical exactly when the string is (R28, R80). -/
theorem isCanonical_iff_isCanonicalString {cs : List Char} {t : Text} (h : cs.length = 36)
    (ht : ∀ i : Fin 36, ∃ c, cs[i.val]? = some c ∧ t[i] = charOctet c) : IsCanonical t ↔ IsCanonicalString cs := by
  simp only [IsCanonical, IsCanonicalString, h, true_and]
  refine forall_congr' fun i => ?_
  obtain ⟨c, hc, hti⟩ := ht i
  simp only [hc, hti]
  split
  · exact charOctet_eq_hyphen
  · exact charOctet_isHex

/-- Settles O57: a string of another length gives no TIN and fails on TLEN; one of length 36 parses as its octets do. -/
theorem transportAcceptsExactlyCanonicalStrings : Obligations.TransportAcceptsExactlyCanonicalStrings := by
  intro cs
  by_cases h : cs.length = 36
  · obtain ⟨t, ht, hchars⟩ := textOfChars_of_length h
    refine ⟨?_, fun hne => absurd h hne⟩
    rw [← isCanonical_iff_isCanonicalString h hchars, ← parseChars_isSome]
    simp [ht, parseText, textLength_eq_thirtySix, h]
  · have hnone := textOfChars_of_length_ne h
    exact ⟨⟨fun ⟨t, ht, _⟩ => by simp [hnone] at ht, fun hc => absurd hc.1 h⟩,
      fun _ => ⟨hnone, fun t => if_neg (mt textLength_eq_thirtySix.mp h)⟩⟩

end Sys2Proof.Machine
end

section
/-!
PROOFS. The statements on command words and frames (30_encoding.md): which word selects which command, what a step does
with a word, what each command leaves unchanged, and the pseudo-instructions on key words.
-/

namespace Sys2Proof.Machine

/-! ## The frame of each command -/

/-- The commands that write UOUT (R26, R62). -/
abbrev uoutWriters : List Instr := [.parse, .xorts, .setver, .encb, .decb]

/-- The commands that write TOUT (R26, R62). -/
abbrev toutWriters : List Instr := [.serialize, .encf, .decf, .enc, .dec]

section Frame

variable {i : Instr} {s t : State}

/-- Only SETKEYS writes KEYREG (R22). -/
theorem exec_sameKey (h : exec i s = .next t) (hi : i ≠ .setkeys) : SameKey s t :=
  (exec_key_cases h).resolve_right fun hset => hi hset.1

/-- Only its writers write UOUT (R26). -/
theorem exec_uout_of_notMem (h : exec i s = .next t) (hi : i ∉ uoutWriters) : t.uout = s.uout := by
  obtain ⟨e, -, rfl⟩ | ⟨b, -, rfl⟩ | ⟨v, hw, -⟩ | ⟨v, -, rfl⟩ | ⟨v, -, rfl⟩ | ⟨a, b, -, -, -, -, rfl⟩ :=
    exec_next_cases h
  case inr.inr.inl => exact absurd hw hi
  all_goals rfl

/-- Only its writers write TOUT (R26). -/
theorem exec_tout_of_notMem (h : exec i s = .next t) (hi : i ∉ toutWriters) : t.tout = s.tout := by
  obtain ⟨e, -, rfl⟩ | ⟨b, -, rfl⟩ | ⟨v, -, rfl⟩ | ⟨v, hw, -⟩ | ⟨v, -, rfl⟩ | ⟨a, b, -, -, -, -, rfl⟩ :=
    exec_next_cases h
  case inr.inr.inr.inl => exact absurd hw hi
  all_goals rfl

/-- Only MASK writes MOUT (R26). -/
theorem exec_mout_of_ne (h : exec i s = .next t) (hi : i ≠ .mask) : t.mout = s.mout := by
  obtain ⟨e, -, rfl⟩ | ⟨b, -, rfl⟩ | ⟨v, -, rfl⟩ | ⟨v, -, rfl⟩ | ⟨v, hw, -⟩ | ⟨a, b, -, -, -, -, rfl⟩ :=
    exec_next_cases h
  case inr.inr.inr.inr.inl => exact absurd hw hi
  all_goals rfl

/-- A command that ends with an error has written STATUS and nothing else (R173). -/
theorem exec_eq_setStatus_of_error (h : exec i s = .next t) (he : statusErr t.status ≠ 0#3) :
    ∃ e, t = s.setStatus (statusWord e false) := by
  obtain ⟨e, -, ht⟩ | ⟨b, -, rfl⟩ | ⟨v, -, rfl⟩ | ⟨v, -, rfl⟩ | ⟨v, -, rfl⟩ | ⟨a, b, -, -, -, -, rfl⟩ :=
    exec_next_cases h
  · exact ⟨e, ht⟩
  · exact absurd (statusErr_statusWord .noError b) he
  · exact absurd statusErr_success he
  · exact absurd statusErr_success he
  · exact absurd statusErr_success he
  · exact absurd statusErr_success_true he

/-- A command that succeeds has written UOUT or TOUT if it is one of the port's writers (R26, R62). -/
theorem exec_success_cases (h : exec i s = .next t) (he : statusErr t.status = 0#3) :
    (i ∈ uoutWriters ∧ t.uout.isSome) ∨ (i ∈ toutWriters ∧ t.tout.isSome) ∨
      (i ∉ uoutWriters ∧ i ∉ toutWriters) := by
  obtain ⟨e, hne, rfl⟩ | ⟨b, hi, -⟩ | ⟨v, hi, rfl⟩ | ⟨v, hi, rfl⟩ | ⟨v, rfl, -⟩ | ⟨a, b, rfl, -⟩ := exec_next_cases h
  · exact absurd ((errNumber_eq_zero e).mp ((statusErr_statusWord e false).symm.trans he)) hne
  · have hnot : ∀ i ∈ [Instr.validate, .haskeys], i ∉ uoutWriters ∧ i ∉ toutWriters := by decide
    exact .inr (.inr (hnot i hi))
  · exact .inl ⟨hi, rfl⟩
  · exact .inr (.inl ⟨hi, rfl⟩)
  · exact .inr (.inr (by decide))
  · exact .inr (.inr (by decide))

/-- MASK, VALIDATE and HASKEYS never fail (R83, R103, R151). -/
theorem exec_statusErr_of_mem (hi : i ∈ [.mask, .validate, .haskeys]) (h : exec i s = .next t) :
    statusErr t.status = 0#3 := by
  have finished : ∀ {b u}, finish b u = .next t → statusErr t.status = 0#3 := by
    intro b u hu
    rw [finish_next.mp hu]
    exact statusErr_statusWord .noError b
  simp only [List.mem_cons, List.not_mem_nil, or_false] at hi
  obtain rfl | rfl | rfl := hi
  · obtain ⟨a, b, -, -, h⟩ := withExplicitKey_next.mp h
    obtain ⟨n, -, h⟩ := withOperand_next.mp h
    exact finished h
  · simp only [exec, execValidate] at h
    obtain ⟨r, -, h⟩ := withText_next h
    exact finished h
  · exact finished h

end Frame

/-- Settles O28: a UOUT writer writes neither another result port nor the key, and with an error not UOUT either. -/
theorem uoutWritersFrame : Obligations.UoutWritersFrame := by
  intro i s t hi h
  have hnot : ∀ i ∈ uoutWriters, i ≠ .setkeys ∧ i ∉ toutWriters ∧ i ≠ .mask := by decide
  obtain ⟨hkey, htout, hmout⟩ := hnot i hi
  refine ⟨exec_sameKey h hkey, exec_sameOperands h, exec_tout_of_notMem h htout, exec_mout_of_ne h hmout,
    exec_sameHostSide h, fun he => ?_, fun he => ?_⟩
  · obtain ⟨e, rfl⟩ := exec_eq_setStatus_of_error h he
    rfl
  · obtain ⟨-, hsome⟩ | ⟨ht, -⟩ | ⟨hu, -⟩ := exec_success_cases h he
    · exact hsome
    · exact absurd ht htout
    · exact absurd hi hu

/-- Settles O29: a TOUT writer writes neither another result port nor the key, and with an error not TOUT either. -/
theorem toutWritersFrame : Obligations.ToutWritersFrame := by
  intro i s t hi h
  have hnot : ∀ i ∈ toutWriters, i ≠ .setkeys ∧ i ∉ uoutWriters ∧ i ≠ .mask := by decide
  obtain ⟨hkey, huout, hmout⟩ := hnot i hi
  refine ⟨exec_sameKey h hkey, exec_sameOperands h, exec_uout_of_notMem h huout, exec_mout_of_ne h hmout,
    exec_sameHostSide h, fun he => ?_, fun he => ?_⟩
  · obtain ⟨e, rfl⟩ := exec_eq_setStatus_of_error h he
    rfl
  · obtain ⟨hu, -⟩ | ⟨-, hsome⟩ | ⟨-, ht⟩ := exec_success_cases h he
    · exact absurd hu huout
    · exact hsome
    · exact absurd hi ht

/-- Settles O30: the three write neither UOUT nor TOUT nor the key, and end without an error. -/
theorem maskValidateHaskeysFrame : Obligations.MaskValidateHaskeysFrame := by
  intro i s t hi h
  have hnot : ∀ i ∈ [Instr.mask, .validate, .haskeys], i ≠ .setkeys ∧ i ∉ toutWriters ∧ i ∉ uoutWriters := by decide
  obtain ⟨hkey, htout, huout⟩ := hnot i hi
  exact ⟨exec_sameKey h hkey, exec_sameOperands h, exec_tout_of_notMem h htout, exec_uout_of_notMem h huout,
    exec_sameHostSide h, exec_statusErr_of_mem hi h, exec_mout_of_ne h⟩

/-- Settles O31: SETKEYS writes no result port, and with an error not the key either. -/
theorem setkeysFrame : Obligations.SetkeysFrame := by
  intro s t h
  refine ⟨exec_sameOperands h, ⟨exec_tout_of_notMem h (by decide), exec_uout_of_notMem h (by decide),
    exec_mout_of_ne h (by decide)⟩, exec_sameHostSide h, fun he => ?_⟩
  obtain ⟨e, rfl⟩ := exec_eq_setStatus_of_error h he
  exact ⟨rfl, rfl, rfl⟩

/-! ## Command words -/

/-- The word of a command selects it (R62, R64). -/
theorem decode_encode (i : Instr) : decode (encode i) = .ok i := by cases i <;> rfl

theorem legalWord_encode (i : Instr) : legalWord (encode i) = true := by cases i <;> rfl

theorem legalWord_eq_false {w : Byte} (hw : w = 0x00#8 ∨ 0x0F#8 ≤ w) : legalWord w = false := by
  obtain rfl | hw := hw
  · rfl
  · have : ¬ w ≤ 0x0E#8 := by bv_omega
    simp [legalWord, this]

/-- A word that selects no command is rejected by name. -/
theorem decode_eq_error {w : Byte} {r : Reject} (h : decode w = .error r) : r = .illegalCommand w := by
  unfold decode at h
  split at h <;> cases h
  rfl

/-- An illegal word selects no command, since every command's word is legal (R64, R65). -/
theorem decode_of_illegal {w : Byte} (hw : legalWord w = false) : decode w = .error (.illegalCommand w) := by
  cases h : decode w with
  | ok i =>
    have hlegal := legalWord_encode i
    rw [encode_of_decode h, hw] at hlegal
    exact absurd hlegal Bool.false_ne_true
  | error r => rw [decode_eq_error h]

/-- Settles O1: the words of R62 by evaluation, the others because they are illegal. -/
theorem decodeIsExactMatch : Obligations.DecodeIsExactMatch :=
  ⟨rfl, rfl, rfl, rfl, rfl, rfl, rfl, rfl, rfl, rfl, rfl, rfl, rfl, rfl,
    fun _ hw => decode_of_illegal (legalWord_eq_false hw)⟩

/-- Settles O2: by the opcode map, read in both directions. -/
theorem decodeEncodeAgree : Obligations.DecodeEncodeAgree :=
  ⟨fun i _ => decode_encode i, fun _ _ => encode_of_decode⟩

theorem runCommand_of_decode {w : Byte} {i : Instr} (h : decode w = .ok i) (s : State) :
    runCommand w s = exec i s := by
  simp [runCommand, h]

theorem runCommand_of_illegal {w : Byte} (hw : legalWord w = false) (s : State) : runCommand w s = execIllegal s := by
  simp [runCommand, decode_of_illegal hw]

/-- A step on a presented word runs it and shows the STATUS it leaves (R60, R207). -/
theorem step_command {s : State} {h : Nat} {w : Byte} {rest : List Issued}
    (hp : s.pending = { host := h, event := .command w } :: rest) :
    step s = recordStatus (runCommand w { s with pending := rest }) :=
  step_cons hp

/-- Settles O3: the word runs as the command it selects, and each outcome is recorded as it is. -/
theorem stepRunsDecodedCommand : Obligations.StepRunsDecodedCommand := by
  intro s h w rest i hp hw
  rw [step_command hp, runCommand_of_decode hw]
  cases exec i { s with pending := rest } <;> rfl

/-- Settles O4: the word runs as an illegal one, which raises an error on every state. -/
theorem illegalWordOnlySetsStatus : Obligations.IllegalWordOnlySetsStatus := by
  intro s h w rest hp hw
  rw [step_command hp, runCommand_of_illegal (legalWord_eq_false hw)]
  rfl

/-! ## The pseudo-instructions on key words -/

theorem operandOfNat_kin0 {v : Nat} (h : v < 2 ^ 64) :
    operandOfNat .kin0 v = some (.kin0 (BitVec.ofNat 64 v)) :=
  if_pos h

theorem operandOfNat_kin1 {v : Nat} (h : v < 2 ^ 64) :
    operandOfNat .kin1 v = some (.kin1 (BitVec.ofNat 64 v)) :=
  if_pos h

/-- A key word that is no 64-bit number is no value of a key port (R150, log entry 15). -/
theorem operandOfNat_key_eq_none {v : Nat} (h : 2 ^ 64 ≤ v) :
    operandOfNat .kin0 v = none ∧ operandOfNat .kin1 v = none :=
  ⟨if_neg h.not_gt, if_neg h.not_gt⟩

/-- The events of LDKEY, by the two key words (R68). -/
theorem lineEvents_ldkey (k0 k1 : Nat) :
    lineEvents (.ldkey k0 k1) = (operandOfNat .kin0 k0).bind fun a => (operandOfNat .kin1 k1).map fun b =>
      [.write a, .write b, .write (.kpres 0b11#2)] := by
  have hkpres : operandOfNat .kpres 3 = some (.kpres 0b11#2) := rfl
  cases h0 : operandOfNat .kin0 k0 <;> cases h1 : operandOfNat .kin1 k1 <;>
    simp [lineEvents, expandLine, ldkeyLines, lineEvent, h0, h1, hkpres]

/-- SETK is LDKEY and then the word of SETKEYS (R68). -/
theorem lineEvents_setk (k0 k1 : Nat) :
    lineEvents (.setk k0 k1) = (lineEvents (.ldkey k0 k1)).map (· ++ [.command 0x0B#8]) := by
  have hset : lineEvent (.command .setkeys) = some (.command 0x0B#8) := rfl
  simp only [lineEvents, expandLine, List.mapM_append]
  cases (ldkeyLines k0 k1).mapM lineEvent <;> simp [hset]

/-- The events of SETK0, by its key word (R68). -/
theorem lineEvents_setk0 (k0 : Nat) :
    lineEvents (.setk0 k0) = (operandOfNat .kin0 k0).map fun a =>
      [.write a, .write (.kpres 0b01#2), .command 0x0B#8] := by
  have hkpres : operandOfNat .kpres 1 = some (.kpres 0b01#2) := rfl
  cases h0 : operandOfNat .kin0 k0 <;> simp [lineEvents, expandLine, lineEvent, h0, hkpres, encode]

/-- Settles O58: each expansion goes through exactly when its key words are values of the key ports. -/
theorem pseudoInstructionsExpand : Obligations.PseudoInstructionsExpand := by
  intro k0 k1
  refine ⟨fun h0 h1 => ?_, fun h0 => ?_, fun h => ?_, fun h => ?_⟩
  · have hldkey : lineEvents (.ldkey k0 k1) = some [.write (.kin0 (BitVec.ofNat 64 k0)),
        .write (.kin1 (BitVec.ofNat 64 k1)), .write (.kpres 0b11#2)] := by
      simp [lineEvents_ldkey, operandOfNat_kin0 h0, operandOfNat_kin1 h1]
    exact ⟨hldkey, by simp [lineEvents_setk, hldkey]⟩
  · simp [lineEvents_setk0, operandOfNat_kin0 h0]
  · have hldkey : lineEvents (.ldkey k0 k1) = none := by
      obtain h | h := h
      · simp [lineEvents_ldkey, (operandOfNat_key_eq_none h).1]
      · simp [lineEvents_ldkey, (operandOfNat_key_eq_none h).2]
    exact ⟨hldkey, by simp [lineEvents_setk, hldkey]⟩
  · simp [lineEvents_setk0, (operandOfNat_key_eq_none h).1]

end Sys2Proof.Machine
end

section
/-!
PROOFS. The statements on canonical text and on the codec commands (40_codec.md): which text parses and to what, what
serialize_text writes, the round trips, and the outcomes of PARSE, SERIALIZE and VALIDATE.
-/

namespace Sys2Proof.Machine

/-! ## parse_text -/

section Text

variable {t : Text} {u : Uuid}

theorem parseText_eq_some {n : BitVec 32} : parseText n t = some u ↔ n = 36#32 ∧ parseChars t = some u := by
  simp [parseText]

/-- parse_text accepts exactly canonical text of length 36 (R80). -/
theorem parseText_isSome (n : BitVec 32) (t : Text) : (parseText n t).isSome ↔ n = 36#32 ∧ IsCanonical t := by
  simp only [Option.isSome_iff_exists, parseText_eq_some, exists_and_left]
  rw [← Option.isSome_iff_exists, parseChars_isSome]

theorem exists_parseText_of_isCanonical (h : IsCanonical t) : ∃ u, parseText 36#32 t = some u :=
  Option.isSome_iff_exists.mp ((parseText_isSome _ t).mpr ⟨rfl, h⟩)

theorem isCanonical_of_parseChars (h : parseChars t = some u) : IsCanonical t :=
  (parseChars_isSome t).mp (by simp [h])

/-- The value a text parses to is packed from its digits (R80). -/
theorem exists_textDigits_of_parseChars (h : parseChars t = some u) : ∃ ds, textDigits t = some ds ∧ packDigits ds = u := by
  unfold parseChars at h
  split at h
  · exact Option.map_eq_some_iff.mp h
  · cases h

/-- The character at digit position j of a text that parses is digit j of the value (R80). -/
theorem hexval_of_parseChars (h : parseChars t = some u) (j : Fin 32) {p : Fin 36} (hp : hexPos[j.val]? = some p) :
    hexval t[p] = some (digitAt u j.val) := by
  obtain ⟨ds, hds, rfl⟩ := exists_textDigits_of_parseChars h
  obtain ⟨hlen, hget⟩ := mapM_eq_some_get _ _ hds
  obtain ⟨d, hd, hj⟩ := hget j.val p hp
  rw [digitAt_packDigits ds hlen j.val j.isLt] at hj
  rw [hd, hj]

/-! ## serialize_text and lower -/

theorem getElem_serializeText_hyphen (u : Uuid) {p : Fin 36} (hp : p ∈ hyphenPos) : (serializeText u)[p] = 0x2D#8 := by
  rw [getElem_serializeText, if_pos hp]; rfl

theorem getElem_serializeText_digit (u : Uuid) (j : Fin 32) {p : Fin 36} (hp : hexPos[j.val]? = some p) :
    (serializeText u)[p] = lowerhex (digitAt u j.val) := by
  obtain ⟨hnot, hj⟩ := hexPos_index j p hp
  rw [getElem_serializeText, if_neg hnot, hj]

theorem getElem_lowerText (t : Text) (i : Fin 36) : (lowerText t)[i] = lowerByte t[i] := by
  simp [lowerText]

theorem lowerByte_eq_self (c : Byte) : lowerByte c = c ↔ ¬ IsUpperOctet c := by
  revert c; decide

theorem text_ext {t t' : Text} (h : ∀ i : Fin 36, t[i] = t'[i]) : t = t' :=
  Vector.ext fun i hi => h ⟨i, hi⟩

/-- lower leaves exactly the text without upper-case digits as it is (R84). -/
theorem lowerText_eq_self (t : Text) : lowerText t = t ↔ ∀ i : Fin 36, ¬ IsUpperOctet t[i] := by
  simp only [← lowerByte_eq_self, ← getElem_lowerText]
  exact ⟨fun h i => by rw [h], text_ext⟩

/-! ## The round trips -/

/-- Serializing the value of a text gives the text in lower case (R84). -/
theorem serializeText_of_parseChars (h : parseChars t = some u) : serializeText u = lowerText t := by
  refine text_ext fun p => ?_
  rw [getElem_lowerText]
  obtain hp | ⟨j, hp⟩ := hyphen_or_hex p
  · have ht : t[p] = 0x2D#8 := by simpa [mem_hyphenPos.mp hp] using isCanonical_of_parseChars h p
    rw [getElem_serializeText_hyphen u hp, ht]; rfl
  · rw [getElem_serializeText_digit u j hp, lowerhex_of_hexval (hexval_of_parseChars h j hp)]

/-- The serialized text parses back to the value, since it shows each digit of it (R84). -/
theorem parseText_serializeText (u : Uuid) : parseText 36#32 (serializeText u) = some u := by
  obtain ⟨v, hv⟩ := exists_parseText_of_isCanonical (serializeText_isLowerCanonical u).1
  have hdigits : ∀ j < 32, digitAt v j = digitAt u j := by
    intro j hj
    obtain ⟨p, hp⟩ : ∃ p, hexPos[j]? = some p := ⟨_, List.getElem?_eq_getElem hj⟩
    have hread := hexval_of_parseChars (parseText_eq_some.mp hv).2 ⟨j, hj⟩ hp
    rw [getElem_serializeText_digit u ⟨j, hj⟩ hp, hexval_lowerhex] at hread
    exact (Option.some.inj hread).symm
  rw [hv, uuid_ext_digits hdigits]

end Text

/-- Settles O36: the length check, canonical characters, and the packing of the digits. -/
theorem parseAcceptsExactlyCanonicalText : Obligations.ParseAcceptsExactlyCanonicalText := by
  intro n t
  exact ⟨parseText_isSome n t, fun u h j p hp => hexval_of_parseChars (parseText_eq_some.mp h).2 j hp⟩

/-- Settles O37: by what serialize_text writes at each kind of position. -/
theorem serializeGivesLowerCaseDigits : Obligations.SerializeGivesLowerCaseDigits := by
  intro u
  exact ⟨fun p hp => getElem_serializeText_hyphen u hp, fun j p hp => getElem_serializeText_digit u j hp,
    serializeText_isLowerCanonical u⟩

/-- Settles O38: digit by digit, the text and the value determine each other up to the case of the digits. -/
theorem textRoundTrip : Obligations.TextRoundTrip := by
  refine ⟨parseText_serializeText, fun t ht => ?_, getElem_lowerText⟩
  obtain ⟨u, hu⟩ := exists_parseText_of_isCanonical ht
  have hlower := serializeText_of_parseChars (parseText_eq_some.mp hu).2
  exact ⟨u, hu, hlower, hlower ▸ lowerText_eq_self t⟩

/-! ## The codec commands -/

section Commands

variable {s : State}

/-- PARSE on text that parses (R81). -/
theorem exec_parse_of_some {u : Uuid} (h : TextGives s (some u)) :
    exec .parse s = .next ((s.writeUout u).setStatus 0x00#8) := by
  simp only [exec, execParse]
  rw [withText_of_gives h]; rfl

/-- PARSE on text that does not parse (R81). -/
theorem exec_parse_of_none (h : TextGives s none) : exec .parse s = .next (s.setStatus 0x01#8) := by
  simp only [exec, execParse]
  rw [withText_of_gives h]; rfl

/-- SERIALIZE on a written UIN, whatever its value (R82). -/
theorem exec_serialize_of_some {u : Uuid} (h : s.uin = some u) :
    exec .serialize s = .next ((s.writeTout (serializeText u)).setStatus 0x00#8) := by
  simp only [exec, execSerialize, h, withOperand_some]; rfl

theorem exec_serialize_of_none (h : s.uin = none) : exec .serialize s = .fault (.unwrittenPort .uin) := by
  simp only [exec, execSerialize, h, withOperand_none]

/-- VALIDATE reports the verdict on the text (R83). -/
theorem exec_validate_of_gives {r : Option Uuid} (h : TextGives s r) :
    exec .validate s = .next (s.setStatus (statusWord .noError (validText r))) := by
  simp only [exec, execValidate]
  rw [withText_of_gives h]; rfl

theorem exec_validate_next {t : State} (h : exec .validate s = .next t) :
    ∃ r, TextGives s r ∧ t = s.setStatus (statusWord .noError (validText r)) := by
  simp only [exec, execValidate] at h
  obtain ⟨r, hr, hfin⟩ := withText_next h
  exact ⟨r, hr, finish_next.mp hfin⟩

/-- The verdict in numbers: versions 1 to 8 and variant 10b (R83). -/
theorem validText_eq_true {r : Option Uuid} :
    validText r = true ↔ ∃ u, r = some u ∧ 1 ≤ (ver u).toNat ∧ (ver u).toNat ≤ 8 ∧ variant u = 0b10#2 := by
  cases r with
  | none => simp [validText]
  | some u => simp [validText, BitVec.le_def]

/-- PARSE succeeds on text that gives a value. -/
theorem exec_parse_success {u : Uuid} (h : TextGives s (some u)) :
    ∃ t, exec .parse s = .next t ∧ statusErr t.status = 0#3 :=
  ⟨_, exec_parse_of_some h, by simp⟩

end Commands

/-- There is a value of every version and variant (R85). -/
theorem exists_uuid_ver_variant (v : Nibble) (x : BitVec 2) : ∃ u, ver u = v ∧ variant u = x := by
  refine ⟨0#48 ++ v ++ 0#12 ++ x ++ 0#62, ?_, ?_⟩
  · revert v x; decide
  · revert v x; decide

/-- Settles O39: a true verdict comes from a text that gives a value, and serialized text parses whatever its value. -/
theorem validateImpliesParse : Obligations.ValidateImpliesParse := by
  refine ⟨fun s t h hb => ?_, fun s x hlen htin hx => ?_, fun v x => ?_⟩
  · obtain ⟨r, hr, rfl⟩ := exec_validate_next h
    rw [State.setStatus_status, statusBool_statusWord] at hb
    obtain ⟨u, rfl, -⟩ := validText_eq_true.mp hb
    exact exec_parse_success hr
  · obtain ⟨u, hu⟩ := exists_parseText_of_isCanonical hx
    exact exec_parse_success (.inr ⟨x, hlen, htin, hu.symm⟩)
  · obtain ⟨u, hver, hvar⟩ := exists_uuid_ver_variant v x
    exact ⟨serializeText u, u, (serializeText_isLowerCanonical u).1, parseText_serializeText u, hver, hvar⟩

/-- Settles O10: by whether the text operand gives a value, and by the order of its reads. -/
theorem parseWritesUout : Obligations.ParseWritesUout := by
  intro s
  exact ⟨fun u h => exec_parse_of_some h, exec_parse_of_none, fun hlen htin =>
    unwrittenTextPortFaults s .parse .tin (.inr ⟨rfl, hlen, htin⟩) (.inl (by simp))⟩

/-- Settles O11: by whether UIN is written. -/
theorem serializeWritesTout : Obligations.SerializeWritesTout := by
  intro s
  exact ⟨fun u hu => ⟨exec_serialize_of_some hu, (serializeText_isLowerCanonical u).2⟩, exec_serialize_of_none⟩

/-- Settles O12: the verdict is a condition on the value that the text gives, or does not give. -/
theorem validateReportsVerdict : Obligations.ValidateReportsVerdict := by
  intro s
  refine ⟨fun r hr => ?_, fun hlen htin =>
    unwrittenTextPortFaults s .validate .tin (.inr ⟨rfl, hlen, htin⟩) (.inl (by simp))⟩
  rw [exec_validate_of_gives hr, ← validText_eq_true]
  refine ⟨fun h => ?_, fun h => ?_⟩
  · rw [h]; rfl
  · rw [Bool.eq_false_of_not_eq_true h]; rfl

end Sys2Proof.Machine
end

section
/-!
PROOFS. The statements on the mask generator (41_mask.md): the octets of the nonce and their load as the message word,
the published vectors of the decided MASK_PRF, and the outcomes of MASK.
-/

namespace Sys2Proof.Machine

/-! ## The octets of the nonce -/

/-- The nonce bit by bit: bits 0..61 of the value, then zeros (R100). -/
theorem getLsbD_nonce (u : Uuid) (i : Nat) : (nonce u).getLsbD i = (decide (i < 62) && u.getLsbD i) := by
  simp only [nonce, randB, BitVec.getLsbD_setWidth, BitVec.getLsbD_extractLsb', Nat.zero_add]
  by_cases h : i < 62
  · simp [h, show i < 64 by omega]
  · simp [h]

theorem toNat_nonce (u : Uuid) : (nonce u).toNat = u.toNat % 2 ^ 62 := by
  simp only [nonce, randB, BitVec.toNat_setWidth, BitVec.extractLsb'_toNat, Nat.shiftRight_zero]
  omega

/-- Message octet 0 of the nonce is byte 8 of the value without its two variant bits (R43 (c)). -/
theorem nonceOctet_nonce_zero (u : Uuid) : nonceOctet (nonce u) 0 = byteAt u 8 &&& 0x3F#8 := by
  have hmask : ∀ j < 8, (0x3F#8).getLsbD j = decide (56 + j < 62) := by decide
  apply BitVec.eq_of_getLsbD_eq
  intro j hj
  rw [BitVec.getLsbD_and, hmask j hj]
  simp [nonceOctet, byteAt, getLsbD_nonce, hj, Bool.and_comm]

/-- Message octets 1..7 of the nonce lie below the variant, so they are bytes 9..15 of the value (R43 (c)). -/
theorem nonceOctet_nonce_of_pos (u : Uuid) {i : Nat} (h1 : 1 ≤ i) (h7 : i ≤ 7) :
    nonceOctet (nonce u) i = byteAt u (8 + i) := by
  have hpos : 120 - 8 * (8 + i) = 56 - 8 * i := by omega
  apply BitVec.eq_of_getLsbD_eq
  intro j hj
  simp [nonceOctet, byteAt, getLsbD_nonce, hpos, show 56 - 8 * i + j < 62 by omega]

/-! ## The little-endian load -/

/-- The sum of the first k octets, octet i moved up by i octets (R43 (d)). -/
def loadOctets (octet : Nat → Byte) (k : Nat) : Word :=
  (List.range k).foldl (fun acc i => acc + ((octet i).setWidth 64 <<< (8 * i))) 0#64

theorem messageWord_eq_loadOctets (n : Word) : messageWord n = loadOctets (nonceOctet n) 8 := rfl

theorem loadOctets_succ (octet : Nat → Byte) (k : Nat) :
    loadOctets octet (k + 1) = loadOctets octet k + ((octet k).setWidth 64 <<< (8 * k)) := by
  simp [loadOctets, List.range_succ]

/-- Bit j of the sum is bit j % 8 of octet j / 8: the octets do not overlap, so nothing carries. -/
theorem getLsbD_loadOctets (octet : Nat → Byte) {k : Nat} (hk : k ≤ 8) (j : Nat) :
    (loadOctets octet k).getLsbD j = (decide (j < 8 * k) && (octet (j / 8)).getLsbD (j % 8)) := by
  induction k generalizing j with
  | zero => simp [loadOctets]
  | succ k ih =>
    have ih := ih (by omega)
    have hdisjoint : loadOctets octet k &&& ((octet k).setWidth 64 <<< (8 * k)) = 0#64 := by
      apply BitVec.eq_of_getLsbD_eq
      intro j _
      simp only [BitVec.getLsbD_and, ih, BitVec.getLsbD_shiftLeft]
      by_cases hj : j < 8 * k <;> simp [hj]
    rw [loadOctets_succ, BitVec.add_eq_or_of_and_eq_zero _ _ hdisjoint, BitVec.getLsbD_or, ih,
      BitVec.getLsbD_shiftLeft, BitVec.getLsbD_setWidth]
    by_cases hlow : j < 8 * k
    · simp [hlow, show j < 8 * (k + 1) by omega]
    · by_cases hnew : j < 8 * (k + 1)
      · have hq : j / 8 = k := by omega
        have hr : j % 8 = j - 8 * k := by omega
        simp [hlow, hnew, hq, hr, show j < 64 by omega, show j - 8 * k < 64 by omega]
      · simp [hlow, hnew, BitVec.getLsbD_of_ge (octet k) (j - 8 * k) (by omega)]

/-- Octet i of the message word is message octet i (R43 (d), R101). -/
theorem extractLsb'_messageWord (n : Word) {i : Nat} (hi : i ≤ 7) :
    (messageWord n).extractLsb' (8 * i) 8 = nonceOctet n i := by
  apply BitVec.eq_of_getLsbD_eq
  intro j hj
  have hq : (8 * i + j) / 8 = i := by omega
  have hr : (8 * i + j) % 8 = j := by omega
  rw [BitVec.getLsbD_extractLsb', messageWord_eq_loadOctets, getLsbD_loadOctets _ (by omega), hq, hr]
  simp [hj, show 8 * i + j < 64 by omega]

/-- Settles O43: bit by bit, since neither taking octets nor loading them mixes bits. -/
theorem nonceIsRandBBytes : Obligations.NonceIsRandBBytes := by
  intro u
  exact ⟨toNat_nonce u, nonceOctet_nonce_zero u, fun _ h1 h7 => nonceOctet_nonce_of_pos u h1 h7,
    fun n _ hi => extractLsb'_messageWord n hi⟩

/-! ## The command MASK -/

/-- MASK on written operands, whatever the key and the nonce (R103). -/
theorem exec_mask_of_some {s : State} {k0 k1 n : Word} (h0 : s.kin0 = some k0) (h1 : s.kin1 = some k1)
    (hn : s.nin = some n) : exec .mask s = .next ((s.writeMout (mask48 k0 k1 n)).setStatus 0x00#8) := by
  simp only [exec, execMask, withExplicitKey, h0, h1, hn, withOperand_some]; rfl

theorem not_ready_mask {s : State} (h : s.kin0 = none ∨ s.kin1 = none ∨ s.nin = none) : ¬ Ready .mask s := by
  rintro ⟨⟨h0, h1⟩, hn⟩
  obtain h | h | h := h
  · simp [h] at h0
  · simp [h] at h1
  · simp [h] at hn

/-- Settles O13: by whether the three operands MASK reads are written. -/
theorem maskWritesMout : Obligations.MaskWritesMout := by
  intro s
  exact ⟨fun _ _ _ h0 h1 hn => exec_mask_of_some h0 h1 hn,
    fun h => (completesExactlyWhenReady .mask s).2 (not_ready_mask h)⟩

/-! ## The published vectors -/

/-- The vectors' nonce, whose octets are 00..07, is loaded as V-P2's first block (R101). -/
theorem messageWord_of_vector : messageWord 0x0001020304050607#64 = 0x0706050403020100#64 := by decide

/-- V-P2: the message of 8 octets, as MASK_PRF forms it (R101). -/
theorem sipHash24_of_eight_octets :
    sipHash24 0x0706050403020100#64 0x0f0e0d0c0b0a0908#64 [0x0706050403020100#64, 0x0800000000000000#64] =
      0x93f5f5799a932462#64 := by decide

/-- V-M4: MASK_PRF hashes V-P2's message. -/
theorem maskPrf_of_vector :
    maskPrf 0x0706050403020100#64 0x0f0e0d0c0b0a0908#64 0x0001020304050607#64 = 0x93f5f5799a932462#64 := by
  unfold maskPrf
  rw [messageWord_of_vector, sipHash24_of_eight_octets]

/-- Settles O44: V-M4 follows from V-P2; the other vectors are computed. -/
theorem maskPrfMeetsPublishedVectors : Obligations.MaskPrfMeetsPublishedVectors := by
  refine ⟨?_, sipHash24_of_eight_octets, ?_, maskPrf_of_vector, ?_, ?_⟩
  · decide
  · decide
  · rw [mask48, mask48With, maskPrf_of_vector]; decide
  · decide

end Sys2Proof.Machine
end

section
/-!
PROOFS. The statements on the transform family (42_transform.md): what XOR-combine and the version rewriter do to each
field, the round trips of the encode and decode cores, the structure of their outputs, and the outcomes of the commands.
-/

namespace Sys2Proof.Machine

/-! ## The fields under XOR-combine and the version rewriter -/

section Fields

variable (u : Uuid) (m : Mask) (v : Nibble)

/-- A value is known by its five fields (R13). -/
theorem uuid_ext_fields {u w : Uuid} (hts : ts u = ts w) (hver : ver u = ver w) (hra : randA u = randA w)
    (hvar : variant u = variant w) (hrb : randB u = randB w) : u = w := by
  apply BitVec.eq_of_toNat_eq
  rw [(fieldsTileTheValue u).1, (fieldsTileTheValue w).1, hts, hver, hra, hvar, hrb]

/-- XOR-combine leaves alone whatever lies below the timestamp (R120). -/
theorem extractLsb'_xorTs {start len : Nat} (h : start + len ≤ 80) :
    (xorTs u m).extractLsb' start len = u.extractLsb' start len := by
  apply BitVec.eq_of_getLsbD_eq
  intro i hi
  simp only [BitVec.getLsbD_extractLsb', hi]
  rw [getLsbD_xorTs _ _ _ (by omega)]
  simp [show ¬ 80 ≤ start + i by omega]

@[simp] theorem ver_xorTs : ver (xorTs u m) = ver u := extractLsb'_xorTs u m (by decide)
@[simp] theorem randA_xorTs : randA (xorTs u m) = randA u := extractLsb'_xorTs u m (by decide)
@[simp] theorem variant_xorTs : variant (xorTs u m) = variant u := extractLsb'_xorTs u m (by decide)
@[simp] theorem randB_xorTs : randB (xorTs u m) = randB u := extractLsb'_xorTs u m (by decide)

/-- Mask bit i meets bit i of the timestamp (R120). -/
theorem getLsbD_xorTs_timestamp {i : Nat} (hi : i < 48) :
    (xorTs u m).getLsbD (80 + i) = (u.getLsbD (80 + i) ^^ m.getLsbD i) := by
  rw [getLsbD_xorTs _ _ _ (by omega)]
  simp

@[simp] theorem ts_xorTs : ts (xorTs u m) = ts u ^^^ m := by
  apply BitVec.eq_of_getLsbD_eq
  intro i hi
  simp [ts, hi, getLsbD_xorTs_timestamp]

/-- The version rewriter leaves alone whatever does not meet bits 76..79 (R122). -/
theorem extractLsb'_setVer {start len : Nat} (h : start + len ≤ 76 ∨ 80 ≤ start) (h128 : start + len ≤ 128) :
    (setVer u v).extractLsb' start len = u.extractLsb' start len := by
  apply BitVec.eq_of_getLsbD_eq
  intro i hi
  simp only [BitVec.getLsbD_extractLsb', hi]
  rw [getLsbD_setVer _ _ _ (by omega), if_neg (by omega)]

@[simp] theorem ts_setVer : ts (setVer u v) = ts u := extractLsb'_setVer u v (by decide) (by decide)
@[simp] theorem randA_setVer : randA (setVer u v) = randA u := extractLsb'_setVer u v (by decide) (by decide)
@[simp] theorem variant_setVer : variant (setVer u v) = variant u := extractLsb'_setVer u v (by decide) (by decide)
@[simp] theorem randB_setVer : randB (setVer u v) = randB u := extractLsb'_setVer u v (by decide) (by decide)

@[simp] theorem ver_setVer : ver (setVer u v) = v := by
  apply BitVec.eq_of_getLsbD_eq
  intro i hi
  simp only [ver, BitVec.getLsbD_extractLsb', hi]
  rw [getLsbD_setVer _ _ _ (by omega), if_pos (by omega)]
  simp

/-- XOR-combine with the same mask undoes itself (R120). -/
theorem xorTs_xorTs : xorTs (xorTs u m) m = u := by
  simp [xorTs]

/-- Rewriting the version to what it is changes nothing (R122). -/
theorem setVer_ver : setVer u (ver u) = u :=
  uuid_ext_fields (by simp) (by simp) (by simp) (by simp) (by simp)

/-- A second pass with the same mask restores the timestamp and sets its own version (R128, R131). -/
theorem setVer_xorTs_setVer_xorTs (w : Nibble) : setVer (xorTs (setVer (xorTs u m) v) m) w = setVer u w :=
  uuid_ext_fields (by simp) (by simp) (by simp) (by simp) (by simp)

end Fields

/-- Settles O40: each bit of the value is below the timestamp or meets one mask bit. -/
theorem xorCombineOnlyMasksTimestamp : Obligations.XorCombineOnlyMasksTimestamp := by
  intro u m
  exact ⟨fun _ hi => getLsbD_xorTs_timestamp u m hi, ts_xorTs u m, extractLsb'_xorTs u m (by decide), xorTs_xorTs u m⟩

/-- Settles O41: field by field, the version being the only one that meets bits 76..79. -/
theorem setVerReplacesOnlyVersion : Obligations.SetVerReplacesOnlyVersion := by
  intro u v
  exact ⟨ver_setVer u v, ts_setVer u v, randA_setVer u v, variant_setVer u v, randB_setVer u v, setVer_ver u⟩

/-! ## The encode and decode cores -/

/-- The value f is what a core makes of u: version v, variant 10b, and the random fields of u (R129). -/
def IsOutputOf (v : Nibble) (u f : Uuid) : Prop :=
  ver f = v ∧ variant f = 0b10#2 ∧ randA f = randA u ∧ randB f = randB u

section Cores

variable (prf : Prf) (k0 k1 : Word) {u : Uuid}

theorem isOutputOf_setVer_xorTs (h : variant u = 0b10#2) (m : Mask) (v : Nibble) :
    IsOutputOf v u (setVer (xorTs u m) v) := by
  simp [IsOutputOf, h]

/-- enc_core succeeds on version 7 and variant 10b, whatever the key (R123). -/
theorem encCoreWith_of_isV7 (h : IsV7 u) : encCoreWith prf u k0 k1 = .ok (encValueWith prf k0 k1 u) := by
  simp only [encCoreWith, encCheck_eq_none.mpr h]

/-- dec_core succeeds on variant 10b, whatever the key (R123). -/
theorem decCoreWith_of_variant (h : variant u = 0b10#2) :
    decCoreWith prf u k0 k1 = .ok (decValueWith prf k0 k1 u) := by
  simp only [decCoreWith, decCheck_eq_none.mpr h]

theorem encCoreWith_eq_ok {r : Uuid} (h : encCoreWith prf u k0 k1 = .ok r) : r = encValueWith prf k0 k1 u := by
  unfold encCoreWith at h
  split at h
  · cases h
  · exact (Except.ok.inj h).symm

theorem decCoreWith_eq_ok {r : Uuid} (h : decCoreWith prf u k0 k1 = .ok r) : r = decValueWith prf k0 k1 u := by
  unfold decCoreWith at h
  split at h
  · cases h
  · exact (Except.ok.inj h).symm

/-- Decode derives the mask that encode used, so only the version is new (R128). -/
theorem decValueWith_encValueWith (u : Uuid) :
    decValueWith prf k0 k1 (encValueWith prf k0 k1 u) = setVer u 7#4 := by
  rw [decValueWith, encValueWith, nonce_setVer_xorTs, setVer_xorTs_setVer_xorTs]

/-- Encode derives the mask that decode used, so only the version is new (R131). -/
theorem encValueWith_decValueWith (u : Uuid) :
    encValueWith prf k0 k1 (decValueWith prf k0 k1 u) = setVer u 4#4 := by
  rw [encValueWith, decValueWith, nonce_setVer_xorTs, setVer_xorTs_setVer_xorTs]

theorem decValueWith_encValueWith_of_isV7 (h : IsV7 u) : decValueWith prf k0 k1 (encValueWith prf k0 k1 u) = u := by
  rw [decValueWith_encValueWith, ← h.1, setVer_ver]

theorem variant_encValueWith (u : Uuid) : variant (encValueWith prf k0 k1 u) = variant u := by
  simp [encValueWith]

theorem isV7_decValueWith (h : variant u = 0b10#2) : IsV7 (decValueWith prf k0 k1 u) := by
  simp [IsV7, decValueWith, h]

end Cores

/-- Settles O47: the checks look at no key, and the two units change the timestamp and the version alone. -/
theorem wrongKeyIsNeverAnError : Obligations.WrongKeyIsNeverAnError := by
  intro prf u k0 k1 hvar
  have output := isOutputOf_setVer_xorTs hvar (mask48With prf k0 k1 (nonce u))
  refine ⟨⟨_, decCoreWith_of_variant prf k0 k1 hvar, ?_⟩, fun hver =>
    ⟨_, encCoreWith_of_isV7 prf k0 k1 ⟨hver, hvar⟩, ?_⟩⟩
  · obtain ⟨hv, hvar', hra, hrb⟩ := output 7#4
    exact ⟨hv, hvar', hra, hrb, by simp [decValueWith]⟩
  · obtain ⟨hv, hvar', hra, hrb⟩ := output 4#4
    exact ⟨hv, hvar', hra, hrb, by simp [encValueWith]⟩

/-- Settles O48: what decode gives passes encode's check, and the second mask cancels the first. -/
theorem reverseRoundTrip : Obligations.ReverseRoundTrip := by
  intro prf f k0 k1 hvar
  have henc : encCoreWith prf (decValueWith prf k0 k1 f) k0 k1 = .ok (setVer f 4#4) := by
    rw [encCoreWith_of_isV7 prf k0 k1 (isV7_decValueWith prf k0 k1 hvar), encValueWith_decValueWith]
  refine ⟨_, decCoreWith_of_variant prf k0 k1 hvar, henc, fun hver => ?_⟩
  rw [henc, ← hver, setVer_ver]

/-! ## XORTS and SETVER -/

section Commands

variable {s : State} {u : Uuid}

/-- XORTS on written operands (R121). -/
theorem exec_xorts_of_some {m : Mask} (hu : s.uin = some u) (hm : s.min = some m) :
    exec .xorts s = .next ((s.writeUout (xorTs u m)).setStatus 0x00#8) := by
  simp only [exec, execXorts, hu, hm, withOperand_some]; rfl

/-- SETVER on written operands, whatever the version (R122). -/
theorem exec_setver_of_some {v : Nibble} (hu : s.uin = some u) (hv : s.vin = some v) :
    exec .setver s = .next ((s.writeUout (setVer u v)).setStatus 0x00#8) := by
  simp only [exec, execSetver, hu, hv, withOperand_some]; rfl

/-! ## The shared paths of the cores -/

variable {check : Uuid → Option ErrCode} {value : Word → Word → Uuid → Uuid} {a b : Word}

theorem withExplicitKey_of_some (ha : s.kin0 = some a) (hb : s.kin1 = some b) (k : Word → Word → Result) :
    withExplicitKey s k = k a b := by
  simp only [withExplicitKey, ha, hb, withOperand_some]

/-- The binary path on a value the check turns away; the key ports are not read (R124, R125). -/
theorem runBinary_of_error {e : ErrCode} (hu : s.uin = some u) (he : check u = some e) :
    runBinary check value s = raiseError e s := by
  simp only [runBinary, hu, withOperand_some, he]

/-- The binary path on a value the check accepts, with the key ports written (R124, R125). -/
theorem runBinary_of_ok (hu : s.uin = some u) (hc : check u = none) (ha : s.kin0 = some a) (hb : s.kin1 = some b) :
    runBinary check value s = .next ((s.writeUout (value a b u)).setStatus 0x00#8) := by
  simp only [runBinary, hu, withOperand_some, hc, withExplicitKey_of_some ha hb]; rfl

/-- The text path on a value the check accepts, with the key ports written (R126, R127). -/
theorem runText_explicit_of_ok (h : TextGives s (some u)) (hc : check u = none) (ha : s.kin0 = some a)
    (hb : s.kin1 = some b) : runText check value (withExplicitKey s) s =
      .next ((s.writeTout (serializeText (value a b u))).setStatus 0x00#8) := by
  rw [runText_of_ok h hc, withExplicitKey_of_some ha hb]; rfl

/-! ## Where a core needs the key ports -/

variable {P : Uuid → Prop}

theorem not_ready_of_uin (hu : s.uin = some u) (hp : P u) (hkey : ¬ KeyPortsWritten s) :
    ¬ ∃ w, s.uin = some w ∧ (P w → KeyPortsWritten s) := by
  rintro ⟨w, hw, hready⟩
  cases hu.symm.trans hw
  exact hkey (hready hp)

theorem not_ready_of_text (hu : TextGives s (some u)) (hp : P u) (hkey : ¬ KeyPortsWritten s) :
    ¬ ∃ r, TextGives s r ∧ ∀ w, r = some w → P w → KeyPortsWritten s := by
  rintro ⟨r, hr, hready⟩
  exact hkey (hready u (textGives_unique hr hu) hp)

end Commands

/-- Settles O14: both operands are written. -/
theorem xortsWritesUout : Obligations.XortsWritesUout :=
  fun _ _ _ hu hm => exec_xorts_of_some hu hm

/-- Settles O15: both operands are written. -/
theorem setverWritesUout : Obligations.SetverWritesUout :=
  fun _ _ _ hu hv => exec_setver_of_some hu hv

/-- Settles O16: by the outcome of encode's check, and then by whether the key ports are written. -/
theorem encbWritesFacade : Obligations.EncbWritesFacade := by
  intro s u hu
  exact ⟨fun hv7 _ _ ha hb => runBinary_of_ok hu (encCheck_eq_none.mpr hv7) ha hb,
    fun hv7 => runBinary_of_error hu (encCheck_eq_some.mpr ⟨hv7, rfl⟩), fun hv7 hkey =>
      (completesExactlyWhenReady .encb s).2 (not_ready_of_uin (P := IsV7) hu hv7 hkey)⟩

/-- Settles O17: by the outcome of decode's check, and then by whether the key ports are written. -/
theorem decbWritesRecoveredValue : Obligations.DecbWritesRecoveredValue := by
  intro s u hu
  exact ⟨fun hvar _ _ ha hb => runBinary_of_ok hu (decCheck_eq_none.mpr hvar) ha hb,
    fun hvar => runBinary_of_error hu (decCheck_eq_some.mpr ⟨hvar, rfl⟩), fun hvar hkey =>
      (completesExactlyWhenReady .decb s).2 (not_ready_of_uin (P := (variant · = 0b10#2)) hu hvar hkey)⟩

/-- Settles O18: by whether the text parses, then as for ENCB. -/
theorem encfWritesFacadeText : Obligations.EncfWritesFacadeText := by
  intro s
  exact ⟨runText_of_bad, fun u hu => ⟨
    fun hv7 _ _ ha hb => runText_explicit_of_ok hu (encCheck_eq_none.mpr hv7) ha hb,
    fun hv7 => runText_of_error hu (encCheck_eq_some.mpr ⟨hv7, rfl⟩), fun hv7 hkey =>
      (completesExactlyWhenReady .encf s).2 (not_ready_of_text (P := IsV7) hu hv7 hkey)⟩⟩

/-- Settles O19: by whether the text parses, then as for DECB. -/
theorem decfWritesRecoveredText : Obligations.DecfWritesRecoveredText := by
  intro s
  exact ⟨runText_of_bad, fun u hu => ⟨
    fun hvar _ _ ha hb => runText_explicit_of_ok hu (decCheck_eq_none.mpr hvar) ha hb,
    fun hvar => runText_of_error hu (decCheck_eq_some.mpr ⟨hvar, rfl⟩), fun hvar hkey =>
      (completesExactlyWhenReady .decf s).2 (not_ready_of_text (P := (variant · = 0b10#2)) hu hvar hkey)⟩⟩

/-! ## The round trip of the commands -/

/-- Settles O45: decode accepts what encode gives and cancels its mask, and TOUT of ENCF parses to the facade value. -/
theorem facadeRoundTrip : Obligations.FacadeRoundTrip := by
  refine ⟨fun prf u k0 k1 hver hvar => ?_, fun s t u k0 k1 hlen htin ht hver hvar ha hb => ?_⟩
  · refine ⟨_, encCoreWith_of_isV7 prf k0 k1 ⟨hver, hvar⟩, ?_⟩
    rw [decCoreWith_of_variant prf k0 k1 ((variant_encValueWith prf k0 k1 u).trans hvar),
      decValueWith_encValueWith_of_isV7 prf k0 k1 ⟨hver, hvar⟩]
  · have hlower : serializeText u = lowerText t := serializeText_of_parseChars (parseText_eq_some.mp ht).2
    have hback := decValueWith_encValueWith_of_isV7 maskPrf k0 k1 ⟨hver, hvar⟩
    have henc := runText_explicit_of_ok (value := encValueWith maskPrf) (.inr ⟨t, hlen, htin, ht.symm⟩)
      (encCheck_eq_none.mpr ⟨hver, hvar⟩) ha hb
    refine ⟨_, serializeText (encValueWith maskPrf k0 k1 u), _, henc, rfl,
      runText_explicit_of_ok (.inr ⟨_, hlen, rfl, (parseText_serializeText _).symm⟩)
        (decCheck_eq_none.mpr ((variant_encValueWith maskPrf k0 k1 u).trans hvar)) ha hb, ?_⟩
    rw [State.setStatus_tout, State.writeTout_tout, hback, hlower]
    exact ⟨rfl, fun h => congrArg some ((lowerText_eq_self t).mpr h)⟩

/-! ## Successful outputs -/

theorem statusErr_error_ne_zero {e : ErrCode} (h : e ≠ .noError) : statusErr (statusWord e false) ≠ 0#3 := by
  rwa [statusErr_statusWord, Ne, errNumber_eq_zero]

/-- What encode and decode share: the check raises errors only and lets no other variant pass, and the value is
XOR-combine with the mask of the key, then version v (R123). -/
structure IsCore (check : Uuid → Option ErrCode) (value : Word → Word → Uuid → Uuid) (v : Nibble) : Prop where
  error_ne : ∀ {u e}, check u = some e → e ≠ .noError
  variant_of_ok : ∀ {u}, check u = none → variant u = 0b10#2
  value_eq : ∀ a b u, value a b u = setVer (xorTs u (mask48 a b (nonce u))) v

theorem isCore_enc : IsCore encCheck (encValueWith maskPrf) 4#4 where
  error_ne h := by simp [(encCheck_eq_some.mp h).2]
  variant_of_ok h := (encCheck_eq_none.mp h).2
  value_eq _ _ _ := rfl

theorem isCore_dec : IsCore decCheck (decValueWith maskPrf) 7#4 where
  error_ne h := by simp [(decCheck_eq_some.mp h).2]
  variant_of_ok h := decCheck_eq_none.mp h
  value_eq _ _ _ := rfl

namespace IsCore

variable {check : Uuid → Option ErrCode} {value : Word → Word → Uuid → Uuid} {v : Nibble} {s t : State}

theorem isOutputOf (hc : IsCore check value v) {u : Uuid} (hu : check u = none) (a b : Word) :
    IsOutputOf v u (value a b u) := by
  rw [hc.value_eq]
  exact isOutputOf_setVer_xorTs (hc.variant_of_ok hu) _ v

/-- The binary path succeeds only with the check passed and the key ports written. -/
theorem runBinary_success (hc : IsCore check value v) (h : runBinary check value s = .next t)
    (he : statusErr t.status = 0#3) : ∃ u a b, s.uin = some u ∧ check u = none ∧ s.kin0 = some a ∧ s.kin1 = some b ∧
      t = (s.writeUout (value a b u)).setStatus 0x00#8 := by
  obtain ⟨u, hu, ⟨e, hce, rfl⟩ | ⟨hok, a, b, ha, hb, ht⟩⟩ := runBinary_next h
  · exact absurd he (statusErr_error_ne_zero (hc.error_ne hce))
  · exact ⟨u, a, b, hu, hok, ha, hb, ht⟩

theorem runBinary_output (hc : IsCore check value v) (h : runBinary check value s = .next t)
    (he : statusErr t.status = 0#3) : ∃ u f, s.uin = some u ∧ t.uout = some f ∧ IsOutputOf v u f := by
  obtain ⟨u, a, b, hu, hok, -, -, rfl⟩ := hc.runBinary_success h he
  exact ⟨u, _, hu, rfl, hc.isOutputOf hok a b⟩

/-- The text path with a key from anywhere: the ports or KEYREG. -/
theorem runText_output (hc : IsCore check value v) {key : (Word → Word → Result) → Result}
    (hkey : ∀ k, key k = .next t → ∃ a b, k a b = .next t) (h : runText check value key s = .next t)
    (he : statusErr t.status = 0#3) :
    ∃ u f, TextGives s (some u) ∧ t.tout = some (serializeText f) ∧ IsOutputOf v u f := by
  obtain ⟨r, hr, ⟨-, rfl⟩ | ⟨u, e, -, hce, rfl⟩ | ⟨u, rfl, hok, hk⟩⟩ := runText_next h
  · exact absurd he (statusErr_error_ne_zero (e := .invalidFormat) (by simp))
  · exact absurd he (statusErr_error_ne_zero (hc.error_ne hce))
  · obtain ⟨a, b, hfin⟩ := hkey _ hk
    exact ⟨u, value a b u, hr, by rw [finish_next.mp hfin]; rfl, hc.isOutputOf hok a b⟩

theorem runText_explicit_output (hc : IsCore check value v) (h : runText check value (withExplicitKey s) s = .next t)
    (he : statusErr t.status = 0#3) :
    ∃ u f, TextGives s (some u) ∧ t.tout = some (serializeText f) ∧ IsOutputOf v u f := by
  refine hc.runText_output (fun k hk => ?_) h he
  obtain ⟨a, b, -, -, hab⟩ := withExplicitKey_next.mp hk
  exact ⟨a, b, hab⟩

theorem runText_stored_output (hc : IsCore check value v)
    (h : ifKeySet s (runText check value (withStoredKey s) s) = .next t) (he : statusErr t.status = 0#3) :
    ∃ u f, TextGives s (some u) ∧ t.tout = some (serializeText f) ∧ IsOutputOf v u f := by
  obtain ⟨-, h⟩ | ⟨-, rfl⟩ := ifKeySet_next h
  · exact hc.runText_output (fun k hk => ⟨s.k0, s.k1, hk⟩) h he
  · exact absurd he (statusErr_error_ne_zero (e := .keysNotSet) (by simp))

/-- The binary path, where it succeeds, is MASK of the value's nonce, XORTS and SETVER (R132). -/
theorem runBinary_eq_sequence (hc : IsCore check value v) {u : Uuid} (hu : s.uin = some u)
    (h : runBinary check value s = .next t) (he : statusErr t.status = 0#3) :
    ∃ a b c, exec .mask { s with nin := some (nonce u) } = .next a ∧
      exec .xorts { a with min := a.mout } = .next b ∧
      exec .setver { b with uin := b.uout, vin := some v } = .next c ∧ c.uout = t.uout ∧ c.status = t.status := by
  obtain ⟨w, k0, k1, hw, -, h0, h1, rfl⟩ := hc.runBinary_success h he
  cases hu.symm.trans hw
  refine ⟨_, _, _, exec_mask_of_some h0 h1 rfl, exec_xorts_of_some hu rfl, exec_setver_of_some rfl rfl, ?_, rfl⟩
  exact congrArg some (hc.value_eq k0 k1 u).symm

end IsCore

/-- Settles O46: each of the six commands is encode's or decode's core on one of three paths. -/
theorem outputStructure : Obligations.OutputStructure := by
  intro i s t h he
  refine ⟨fun hi => ?_, fun hi => ?_⟩
  · obtain rfl | rfl : i = .encb ∨ i = .decb := by simpa using hi
    · exact isCore_enc.runBinary_output h he
    · exact isCore_dec.runBinary_output h he
  · obtain rfl | rfl | rfl | rfl : i = .encf ∨ i = .enc ∨ i = .decf ∨ i = .dec := by simpa using hi
    · exact isCore_enc.runText_explicit_output h he
    · exact isCore_enc.runText_stored_output h he
    · exact isCore_dec.runText_explicit_output h he
    · exact isCore_dec.runText_stored_output h he

/-- Settles O49: ENCB and DECB are the binary path of a core, whose mask and version the three commands compute. -/
theorem sharedPrimitiveSequence : Obligations.SharedPrimitiveSequence := by
  refine ⟨fun u r k0 k1 => ⟨encCoreWith_eq_ok maskPrf k0 k1, decCoreWith_eq_ok maskPrf k0 k1⟩, ?_⟩
  rintro s d u v i hu (⟨rfl, rfl⟩ | ⟨rfl, rfl⟩) h he
  · exact isCore_enc.runBinary_eq_sequence hu h he
  · exact isCore_dec.runBinary_eq_sequence hu h he

end Sys2Proof.Machine
end

section
/-!
PROOFS. The statements on the key context (43_keyctx.md): SETKEYS and HASKEYS, ENC and DEC as ENCF and DECF with the stored
key, and how long a stored key lasts.
-/

namespace Sys2Proof.Machine

/-! ## SETKEYS and HASKEYS -/

section Setkeys

variable {s : State}

/-- SETKEYS with both halves present stores them in one step (R150). -/
theorem exec_setkeys_of_some {a b : Word} (hp : s.kpres = some 0b11#2) (ha : s.kin0 = some a) (hb : s.kin1 = some b) :
    exec .setkeys s = .next ((s.storeKey a b).setStatus 0x08#8) := by
  simp [exec, execSetkeys, hp, withExplicitKey_of_some ha hb, finish]

/-- SETKEYS with a half absent reads no key port (R150). -/
theorem exec_setkeys_of_absent {p : BitVec 2} (hp : s.kpres = some p) (h : p ≠ 0b11#2) :
    exec .setkeys s = .next (s.setStatus 0x04#8) := by
  simp [exec, execSetkeys, hp, h, raiseError]

theorem exec_setkeys_of_none (hp : s.kpres = none) : exec .setkeys s = .fault (.unwrittenPort .kpres) := by
  simp [exec, execSetkeys, hp]

end Setkeys

/-- Settles O20: by what KPRES holds. -/
theorem setkeysStoresOrReportsMissing : Obligations.SetkeysStoresOrReportsMissing :=
  fun _ => ⟨fun _ _ => exec_setkeys_of_some, fun _ => exec_setkeys_of_absent, exec_setkeys_of_none⟩

/-- HASKEYS reports KVALID, whatever its ports hold (R151). -/
theorem exec_haskeys_of_kvalid {s : State} {b : Bool} (h : s.kvalid = b) :
    exec .haskeys s = .next (s.setStatus (statusWord .noError b)) := by
  subst h; rfl

/-- Settles O21: for each value of KVALID. -/
theorem haskeysReportsKvalid : Obligations.HaskeysReportsKvalid :=
  fun _ => ⟨exec_haskeys_of_kvalid, exec_haskeys_of_kvalid⟩

/-! ## ENC and DEC with the stored key -/

section Stored

variable {s : State} {check : Uuid → Option ErrCode} {value : Word → Word → Uuid → Uuid}

/-- Without a stored key nothing is read (R152, R153, R174). -/
theorem ifKeySet_of_not_kvalid (h : s.kvalid = false) (r : Result) :
    ifKeySet s r = .next (s.setStatus 0x05#8) := by
  simp [ifKeySet, h, raiseError]

theorem exec_enc_of_kvalid (h : s.kvalid = true) :
    exec .enc s = runText encCheck (encValueWith maskPrf) (withStoredKey s) s :=
  ifKeySet_of_kvalid h _

theorem exec_dec_of_kvalid (h : s.kvalid = true) :
    exec .dec s = runText decCheck (decValueWith maskPrf) (withStoredKey s) s :=
  ifKeySet_of_kvalid h _

/-- The text path on a value the check accepts, with the stored key (R152, R153). -/
theorem runText_stored_of_ok {u : Uuid} (h : TextGives s (some u)) (hc : check u = none) :
    runText check value (withStoredKey s) s =
      .next ((s.writeTout (serializeText (value s.k0 s.k1 u))).setStatus 0x00#8) :=
  runText_of_ok h hc

end Stored

/-- Settles O22: by KVALID, then by whether the text parses and encode's check passes. -/
theorem encUsesTheStoredKey : Obligations.EncUsesTheStoredKey := by
  intro s
  refine ⟨fun hv => ifKeySet_of_not_kvalid hv _, fun hv => ?_⟩
  rw [exec_enc_of_kvalid hv]
  exact ⟨runText_of_bad, fun u hu => ⟨
    fun hv7 => runText_stored_of_ok hu (encCheck_eq_none.mpr hv7),
    fun hv7 => runText_of_error hu (encCheck_eq_some.mpr ⟨hv7, rfl⟩)⟩⟩

/-- Settles O23: by KVALID, then by whether the text parses and decode's check passes. -/
theorem decUsesTheStoredKey : Obligations.DecUsesTheStoredKey := by
  intro s
  refine ⟨fun hv => ifKeySet_of_not_kvalid hv _, fun hv => ?_⟩
  rw [exec_dec_of_kvalid hv]
  exact ⟨runText_of_bad, fun u hu => ⟨
    fun hvar => runText_stored_of_ok hu (decCheck_eq_none.mpr hvar),
    fun hvar => runText_of_error hu (decCheck_eq_some.mpr ⟨hvar, rfl⟩)⟩⟩

/-! ## The stored key and the explicit key agree -/

/-- The state with the stored key in KIN0 and KIN1 (R154). -/
def keyInPorts (s : State) : State := { s with kin0 := some s.k0, kin1 := some s.k1 }

/-- The second state is the first with its stored key in KIN0 and KIN1. -/
def IsKeyInPorts (t t' : State) : Prop := t' = keyInPorts t

/-- Reading the key from the ports after putting the stored key there gives the stored key. -/
theorem withExplicitKey_keyInPorts (s : State) (k : Word → Word → Result) :
    withExplicitKey (keyInPorts s) k = withStoredKey s k :=
  rfl

/-- The text operand is read from TLEN and TIN alone. -/
theorem withText_keyInPorts (s : State) (k : Option Uuid → Result) : withText (keyInPorts s) k = withText s k :=
  rfl

/-- The text is read alike; an error writes STATUS in both states, and a success the same text, from the same key. -/
theorem resultRel_runText_keyInPorts (check : Uuid → Option ErrCode) (value : Word → Word → Uuid → Uuid) (s : State) :
    ResultRel IsKeyInPorts (runText check value (withStoredKey s) s)
      (runText check value (withExplicitKey (keyInPorts s)) (keyInPorts s)) := by
  unfold runText
  rw [withText_keyInPorts]
  refine resultRel_withText (SameButUnsetKey.refl s).sameInputs fun r => ?_
  cases r with
  | none => exact resultRel_next rfl
  | some u =>
    simp only [withExplicitKey_keyInPorts]
    split
    · exact resultRel_next rfl
    · exact resultRel_next rfl

/-- ENC and ENCF, or DEC and DECF, are the text path of one core with the two keys (R154). -/
theorem resultRel_exec_keyInPorts {s : State} {i j : Instr} (hv : s.kvalid = true)
    (hij : (i = .enc ∧ j = .encf) ∨ (i = .dec ∧ j = .decf)) :
    ResultRel IsKeyInPorts (exec i s) (exec j (keyInPorts s)) := by
  obtain ⟨rfl, rfl⟩ | ⟨rfl, rfl⟩ := hij
  · rw [exec_enc_of_kvalid hv]
    exact resultRel_runText_keyInPorts encCheck (encValueWith maskPrf) s
  · rw [exec_dec_of_kvalid hv]
    exact resultRel_runText_keyInPorts decCheck (decValueWith maskPrf) s

/-- Settles O50: the two end in states that differ in KIN0 and KIN1 alone, or stop alike. -/
theorem storedKeyAgreesWithExplicit : Obligations.StoredKeyAgreesWithExplicit := by
  intro s i j hv hij
  have h := resultRel_exec_keyInPorts hv hij
  constructor
  · intro t ht
    rw [ht] at h
    obtain ⟨t', ht', rfl⟩ := h
    exact ⟨keyInPorts t, ht', rfl, rfl⟩
  · intro f hf
    rw [hf] at h
    exact h

/-! ## How long a stored key lasts -/

theorem SameKey.trans {s t u : State} (h : SameKey s t) (h' : SameKey t u) : SameKey s u := by
  obtain ⟨hk0, hk1, hkv⟩ := h
  obtain ⟨hk0', hk1', hkv'⟩ := h'
  exact ⟨hk0'.trans hk0, hk1'.trans hk1, hkv'.trans hkv⟩

/-- An event that is neither a reset nor a SETKEYS word keeps KEYREG whole (R22, R155). -/
theorem execEvent_sameKey {e : Issued} {s t : State} (he : KeepsKey e) (h : execEvent e.event s = .next t) :
    SameKey s t := by
  obtain ⟨hreset, hsetkeys⟩ := he
  exact (execEvent_key_cases h hreset).resolve_right fun hset => hsetkeys hset.1

/-- Settles O52: each event of the run keeps KEYREG. -/
theorem storedKeyLastsUntilReplaced : Obligations.StoredKeyLastsUntilReplaced := by
  intro es rest s t hes hp hrun
  exact run_invariant (K := KeepsKey) (P := SameKey s) (fun e a b he hab ha => ha.trans (execEvent_sameKey he hab))
    (fun a l ha => ha) hes hp hrun ⟨rfl, rfl, rfl⟩

end Sys2Proof.Machine
end

section
/-!
PROOFS. The statements on errors and determinism (60_exceptions.md): which cause raises which error, what an error writes,
and what the outcome of a command depends on.
-/

namespace Sys2Proof.Machine

/-! ## The causes of errors -/

/-- The cause of each error (R170): the command raises it where it completes on this state. -/
def Raises (i : Instr) (s : State) : ErrCode → Prop
  | .noError => False
  | .invalidFormat => TextGives s none ∧ (i ∈ [.parse, .encf, .decf] ∨ (i ∈ [.enc, .dec] ∧ s.kvalid = true))
  | .invalidUuidv7 => ∃ u, ¬ IsV7 u ∧
      ((i = .encb ∧ s.uin = some u) ∨ (TextGives s (some u) ∧ (i = .encf ∨ (i = .enc ∧ s.kvalid = true))))
  | .invalidUuid => ∃ u, variant u ≠ 0b10#2 ∧
      ((i = .decb ∧ s.uin = some u) ∨ (TextGives s (some u) ∧ (i = .decf ∨ (i = .dec ∧ s.kvalid = true))))
  | .missingKeyArgument => i = .setkeys ∧ s.kpres ≠ some 0b11#2
  | .keysNotSet => i ∈ [.enc, .dec] ∧ s.kvalid = false
  | .illegalCommand => False

/-- The completion t of a command on s has ERR 0, or it is the error whose cause holds (R12, R170). -/
def EndsByCause (i : Instr) (s t : State) : Prop :=
  statusErr t.status = 0#3 ∨ ∃ e, Raises i s e ∧ t = s.setStatus (statusWord e false)

section Causes

variable {i : Instr} {s t : State} {u : Uuid} {e : ErrCode}

theorem errNumber_injective : Function.Injective errNumber := by
  intro e e'
  cases e <;> cases e' <;> decide

theorem endsByCause_finish {b : Bool} {s' : State} (h : finish b s' = .next t) : EndsByCause i s t := by
  rw [finish_next.mp h]
  exact .inl (statusErr_statusWord .noError b)

theorem endsByCause_raiseError (hr : Raises i s e) (h : raiseError e s = .next t) : EndsByCause i s t :=
  .inr ⟨e, hr, raiseError_next.mp h⟩

theorem raises_of_encCheck (hc : encCheck u = some e) (hi : (i = .encb ∧ s.uin = some u) ∨
    (TextGives s (some u) ∧ (i = .encf ∨ (i = .enc ∧ s.kvalid = true)))) : Raises i s e := by
  obtain ⟨hv7, rfl⟩ := encCheck_eq_some.mp hc
  exact ⟨u, hv7, hi⟩

theorem raises_of_decCheck (hc : decCheck u = some e) (hi : (i = .decb ∧ s.uin = some u) ∨
    (TextGives s (some u) ∧ (i = .decf ∨ (i = .dec ∧ s.kvalid = true)))) : Raises i s e := by
  obtain ⟨hvar, rfl⟩ := decCheck_eq_some.mp hc
  exact ⟨u, hvar, hi⟩

section Paths

variable {check : Uuid → Option ErrCode} {value : Word → Word → Uuid → Uuid}

/-- The binary path raises only what its check does (R124, R125). -/
theorem endsByCause_runBinary (hcheck : ∀ u e, s.uin = some u → check u = some e → Raises i s e)
    (h : runBinary check value s = .next t) : EndsByCause i s t := by
  obtain ⟨u, hu, ⟨e, hc, rfl⟩ | ⟨-, a, b, -, -, rfl⟩⟩ := runBinary_next h
  · exact .inr ⟨e, hcheck u e hu hc, rfl⟩
  · exact .inl rfl

/-- The text path raises INVALID_FORMAT and what its check does, whichever key it reads (R126, R127, R152, R153). -/
theorem endsByCause_runText {key : (Word → Word → Result) → Result}
    (hkey : ∀ k, key k = .next t → ∃ a b, k a b = .next t)
    (hbad : TextGives s none → Raises i s .invalidFormat)
    (hcheck : ∀ u e, TextGives s (some u) → check u = some e → Raises i s e)
    (h : runText check value key s = .next t) : EndsByCause i s t := by
  obtain ⟨r, hr, ⟨rfl, rfl⟩ | ⟨u, e, rfl, hc, rfl⟩ | ⟨u, rfl, -, hk⟩⟩ := runText_next h
  · exact .inr ⟨.invalidFormat, hbad hr, rfl⟩
  · exact .inr ⟨e, hcheck u e hr hc, rfl⟩
  · obtain ⟨a, b, hfin⟩ := hkey _ hk
    exact endsByCause_finish hfin

theorem withExplicitKey_next_continues {k : Word → Word → Result} (h : withExplicitKey s k = .next t) :
    ∃ a b, k a b = .next t := by
  obtain ⟨a, b, -, -, hk⟩ := withExplicitKey_next.mp h
  exact ⟨a, b, hk⟩

end Paths

/-- A command that completes has ERR 0 or ends with an error whose cause holds (R170). -/
theorem exec_endsByCause (h : exec i s = .next t) : EndsByCause i s t := by
  cases i with
  | parse =>
    simp only [exec, execParse] at h
    obtain ⟨r, hr, h⟩ := withText_next h
    cases r with
    | none => exact endsByCause_raiseError (e := .invalidFormat) ⟨hr, .inl (by simp)⟩ h
    | some u => exact endsByCause_finish h
  | serialize =>
    obtain ⟨u, -, h⟩ := withOperand_next.mp h
    exact endsByCause_finish h
  | validate => exact .inl (exec_statusErr_of_mem (by simp) h)
  | mask => exact .inl (exec_statusErr_of_mem (by simp) h)
  | haskeys => exact .inl (exec_statusErr_of_mem (by simp) h)
  | xorts =>
    obtain ⟨u, -, h⟩ := withOperand_next.mp h
    obtain ⟨m, -, h⟩ := withOperand_next.mp h
    exact endsByCause_finish h
  | setver =>
    obtain ⟨u, -, h⟩ := withOperand_next.mp h
    obtain ⟨v, -, h⟩ := withOperand_next.mp h
    exact endsByCause_finish h
  | encb => exact endsByCause_runBinary (fun u e hu hc => raises_of_encCheck hc (.inl ⟨rfl, hu⟩)) h
  | decb => exact endsByCause_runBinary (fun u e hu hc => raises_of_decCheck hc (.inl ⟨rfl, hu⟩)) h
  | encf =>
    exact endsByCause_runText (fun k => withExplicitKey_next_continues) (fun hr => ⟨hr, .inl (by simp)⟩)
      (fun u e hu hc => raises_of_encCheck hc (.inr ⟨hu, .inl rfl⟩)) h
  | decf =>
    exact endsByCause_runText (fun k => withExplicitKey_next_continues) (fun hr => ⟨hr, .inl (by simp)⟩)
      (fun u e hu hc => raises_of_decCheck hc (.inr ⟨hu, .inl rfl⟩)) h
  | setkeys =>
    obtain ⟨p, hp, h⟩ := withOperand_next.mp h
    split at h
    · next hne => exact endsByCause_raiseError (e := .missingKeyArgument) ⟨rfl, by simpa [hp] using hne⟩ h
    · obtain ⟨a, b, -, -, h⟩ := withExplicitKey_next.mp h
      exact endsByCause_finish h
  | enc =>
    obtain ⟨hv, h⟩ | ⟨hv, h⟩ := ifKeySet_next h
    · exact endsByCause_runText (fun k hk => ⟨s.k0, s.k1, hk⟩) (fun hr => ⟨hr, .inr ⟨by simp, hv⟩⟩)
        (fun u e hu hc => raises_of_encCheck hc (.inr ⟨hu, .inr ⟨rfl, hv⟩⟩)) h
    · exact .inr ⟨.keysNotSet, ⟨by simp, hv⟩, h⟩
  | dec =>
    obtain ⟨hv, h⟩ | ⟨hv, h⟩ := ifKeySet_next h
    · exact endsByCause_runText (fun k hk => ⟨s.k0, s.k1, hk⟩) (fun hr => ⟨hr, .inr ⟨by simp, hv⟩⟩)
        (fun u e hu hc => raises_of_decCheck hc (.inr ⟨hu, .inr ⟨rfl, hv⟩⟩)) h
    · exact .inr ⟨.keysNotSet, ⟨by simp, hv⟩, h⟩

/-- A command whose cause of an error holds ends with that error where it completes; SETKEYS with KPRES unwritten does not
(R150, R170). -/
theorem eq_setStatus_of_raises (h : exec i s = .next t) (hr : Raises i s e) : t = s.setStatus (statusWord e false) := by
  suffices hx : exec i s = raiseError e s from raiseError_next.mp (hx.symm.trans h)
  cases e with
  | noError => exact hr.elim
  | illegalCommand => exact hr.elim
  | invalidFormat =>
    obtain ⟨hbad, hi⟩ := hr
    simp only [List.mem_cons, List.not_mem_nil, or_false] at hi
    obtain (rfl | rfl | rfl) | ⟨rfl | rfl, hv⟩ := hi
    · exact exec_parse_of_none hbad
    · exact runText_of_bad hbad
    · exact runText_of_bad hbad
    · exact (exec_enc_of_kvalid hv).trans (runText_of_bad hbad)
    · exact (exec_dec_of_kvalid hv).trans (runText_of_bad hbad)
  | invalidUuidv7 =>
    obtain ⟨u, hv7, hi⟩ := hr
    have hc : encCheck u = some .invalidUuidv7 := encCheck_eq_some.mpr ⟨hv7, rfl⟩
    obtain ⟨rfl, hu⟩ | ⟨hu, rfl | ⟨rfl, hv⟩⟩ := hi
    · exact runBinary_of_error hu hc
    · exact runText_of_error hu hc
    · exact (exec_enc_of_kvalid hv).trans (runText_of_error hu hc)
  | invalidUuid =>
    obtain ⟨u, hvar, hi⟩ := hr
    have hc : decCheck u = some .invalidUuid := decCheck_eq_some.mpr ⟨hvar, rfl⟩
    obtain ⟨rfl, hu⟩ | ⟨hu, rfl | ⟨rfl, hv⟩⟩ := hi
    · exact runBinary_of_error hu hc
    · exact runText_of_error hu hc
    · exact (exec_dec_of_kvalid hv).trans (runText_of_error hu hc)
  | missingKeyArgument =>
    obtain ⟨rfl, hne⟩ := hr
    obtain ⟨p, hp, -⟩ := withOperand_next.mp h
    exact exec_setkeys_of_absent hp fun h3 => hne (h3 ▸ hp)
  | keysNotSet =>
    obtain ⟨hi, hv⟩ := hr
    simp only [List.mem_cons, List.not_mem_nil, or_false] at hi
    obtain rfl | rfl := hi
    · exact ifKeySet_of_not_kvalid hv _
    · exact ifKeySet_of_not_kvalid hv _

/-- ERR of a completed command names the error whose cause holds (R170). -/
theorem statusErr_eq_iff_raises (h : exec i s = .next t) (he : e ≠ .noError) :
    statusErr t.status = errNumber e ↔ Raises i s e := by
  constructor
  · intro hst
    obtain h0 | ⟨e', hr, rfl⟩ := exec_endsByCause h
    · exact absurd ((errNumber_eq_zero e).mp (hst.symm.trans h0)) he
    · exact errNumber_injective ((statusErr_statusWord e' false).symm.trans hst) ▸ hr
  · intro hr
    rw [eq_setStatus_of_raises h hr]
    exact statusErr_statusWord e false

end Causes

/-- The words the decoder rejects are those of R65. -/
theorem illegal_of_decode_error {w : Byte} {r : Reject} (h : decode w = .error r) : w = 0x00#8 ∨ 0x0F#8 ≤ w := by
  have key : ∀ w : Byte, (decode w).toOption = none → w = 0x00#8 ∨ 0x0F#8 ≤ w := by decide
  exact key w (by simp [h, Except.toOption])

/-- ERR is 6 exactly for the illegal words: no command raises ILLEGAL_COMMAND (R65, R170). -/
theorem statusErr_eq_illegal_iff {w : Byte} {s t : State} (h : runCommand w s = .next t) :
    statusErr t.status = 6#3 ↔ w = 0x00#8 ∨ 0x0F#8 ≤ w := by
  constructor
  · intro hst
    obtain ⟨i, -, h⟩ | ⟨r, hr, -⟩ := runCommand_next h
    · exact ((statusErr_eq_iff_raises (e := .illegalCommand) h (by simp)).mp hst).elim
    · exact illegal_of_decode_error hr
  · intro hw
    rw [runCommand_of_illegal (legalWord_eq_false hw)] at h
    rw [raiseError_next.mp h]
    rfl

/-- Settles O24: ERR names the cause that holds, and causes are those of R170's table. -/
theorem errorCodesHaveExactlyTheirCauses : Obligations.ErrorCodesHaveExactlyTheirCauses := by
  intro w s t h
  obtain ⟨-, hne7, -⟩ := runCommand_legalStatus h
  refine ⟨statusErr_eq_illegal_iff h, hne7, fun i hi => ?_⟩
  rw [runCommand_of_decode hi] at h
  exact ⟨statusErr_eq_iff_raises (e := .invalidFormat) h (by simp),
    statusErr_eq_iff_raises (e := .invalidUuidv7) h (by simp),
    statusErr_eq_iff_raises (e := .invalidUuid) h (by simp),
    statusErr_eq_iff_raises (e := .missingKeyArgument) h (by simp),
    statusErr_eq_iff_raises (e := .keysNotSet) h (by simp)⟩

/-! ## What an error writes -/

/-- Settles O32: a command with an error and an illegal word end alike, by writing the STATUS word of an error. -/
theorem errorWritesOnlyStatus : Obligations.ErrorWritesOnlyStatus := by
  intro w s t h he
  have hend : ∃ e, t = s.setStatus (statusWord e false) := by
    obtain ⟨i, -, h⟩ | ⟨r, -, rfl⟩ := runCommand_next h
    · exact exec_eq_setStatus_of_error h he
    · exact ⟨.illegalCommand, rfl⟩
  obtain ⟨e, rfl⟩ := hend
  exact ⟨rfl, statusBool_statusWord e false, statusReserved_statusWord e false⟩

/-! ## What the outcome of a command depends on -/

/-- The state with every result port unwritten: on it, a result port that holds a value after a command was written by that
command. -/
def clearResults (s : State) : State := { s with tout := none, uout := none, mout := none }

/-- STATUS, KEYREG and whatever result ports hold a value in t are the same in t'. -/
structure ShownIn (t t' : State) : Prop where
  status : t'.status = t.status
  key : SameKey t t'
  tout : t.tout.isSome → t'.tout = t.tout
  uout : t.uout.isSome → t'.uout = t.uout
  mout : t.mout.isSome → t'.mout = t.mout

section Outcome

variable {i : Instr} {s s' t t' : State}

theorem SameKey.symm (h : SameKey s t) : SameKey t s := by
  obtain ⟨hk0, hk1, hkv⟩ := h
  exact ⟨hk0.symm, hk1.symm, hkv.symm⟩

theorem sameInputs_of_sameKey (hk : SameKey s s') (ho : SameOperands s s') : SameInputs s s' := by
  obtain ⟨hk0, hk1, hkv⟩ := hk
  exact ⟨ho, hkv, fun _ => ⟨hk0, hk1⟩⟩

/-- Each write of a command shows on s' as it does on s without its results. -/
theorem relatedByWrites_clearResults (hk : SameKey s s') : RelatedByWrites ShownIn (clearResults s) s' where
  status _ := ⟨rfl, hk, nofun, nofun, nofun⟩
  uout _ _ := ⟨rfl, hk, nofun, fun _ => rfl, nofun⟩
  tout _ _ := ⟨rfl, hk, fun _ => rfl, nofun, nofun⟩
  mout _ _ := ⟨rfl, hk, nofun, nofun, fun _ => rfl⟩
  key _ _ _ := ⟨rfl, ⟨rfl, rfl, rfl⟩, nofun, nofun, nofun⟩

theorem resultRel_exec_clearResults (hk : SameKey s s') (ho : SameOperands s s') (i : Instr) :
    ResultRel ShownIn (exec i (clearResults s)) (exec i s') :=
  resultRel_exec (sameInputs_of_sameKey (s := clearResults s) hk ho) (relatedByWrites_clearResults hk) i

theorem resultRel_next_right {R : State → State → Prop} {r : Result} (h : ResultRel R r (.next t')) :
    ∃ t, r = .next t ∧ R t t' := by
  cases r with
  | next t =>
    obtain ⟨u, hu, hR⟩ := h
    cases hu
    exact ⟨t, rfl, hR⟩
  | fault f => cases h
  | refused x => cases h

theorem exec_tout_isSome (hi : i ∈ toutWriters) (h : exec i s = .next t) (he : statusErr t.status = 0#3) :
    t.tout.isSome := by
  obtain ⟨-, -, -, -, -, -, hsome⟩ := toutWritersFrame i s t hi h
  exact hsome he

theorem exec_uout_isSome (hi : i ∈ uoutWriters) (h : exec i s = .next t) (he : statusErr t.status = 0#3) :
    t.uout.isSome := by
  obtain ⟨-, -, -, -, -, -, hsome⟩ := uoutWritersFrame i s t hi h
  exact hsome he

theorem exec_mask_mout_isSome (h : exec .mask s = .next t) : t.mout.isSome := by
  obtain ⟨a, b, -, -, h⟩ := withExplicitKey_next.mp h
  obtain ⟨n, -, h⟩ := withOperand_next.mp h
  rw [finish_next.mp h]
  rfl

end Outcome

/-- Settles O35: run on s without its results, the command writes what it writes on s and on s', or stops as there. -/
theorem outcomeIgnoresStatusAndResults : Obligations.OutcomeIgnoresStatusAndResults := by
  intro i s s' hk ho
  have hs := resultRel_exec_clearResults (s := s) ⟨rfl, rfl, rfl⟩ ⟨rfl, rfl, rfl, rfl, rfl, rfl, rfl, rfl, rfl⟩ i
  have hs' := resultRel_exec_clearResults hk ho i
  refine ⟨fun t ht => ?_, fun f hf => ?_⟩
  · rw [ht] at hs
    obtain ⟨c, hc, hct⟩ := resultRel_next_right hs
    rw [hc] at hs'
    obtain ⟨t', ht', hct'⟩ := hs'
    refine ⟨t', ht', hct'.status.trans hct.status.symm, hct.key.symm.trans hct'.key,
      fun hi he => ?_, fun hi he => ?_, ?_⟩
    · have hsome := exec_tout_isSome hi hc (hct.status ▸ he)
      exact (hct'.tout hsome).trans (hct.tout hsome).symm
    · have hsome := exec_uout_isSome hi hc (hct.status ▸ he)
      exact (hct'.uout hsome).trans (hct.uout hsome).symm
    · rintro rfl
      have hsome := exec_mask_mout_isSome hc
      exact (hct'.mout hsome).trans (hct.mout hsome).symm
  · have hany : ResultRel (fun _ _ => True) (exec i s) (exec i s') :=
      resultRel_exec (sameInputs_of_sameKey hk ho) ⟨fun _ => trivial, fun _ _ => trivial, fun _ _ => trivial,
        fun _ _ => trivial, fun _ _ _ => trivial⟩ i
    rwa [hf] at hany

/-! ## The host of an event -/

/-- Settles O9: either event has the effect of its HostEvent on the state without it. -/
theorem hostIdentityIsInvisible : Obligations.HostIdentityIsInvisible :=
  fun _ _ _ _ _ => (step_cons rfl).trans (step_cons rfl).symm

end Sys2Proof.Machine
end

section
/-!
PROOFS. The statements on reset (70_reset_and_hazards.md R200, R201): the reset state, the reset event, and the invariants
at reset.
-/

namespace Sys2Proof.Machine

/-- Settles O8: each conjunct is the value State.reset gives that field. -/
theorem resetStateValues : Obligations.ResetStateValues :=
  ⟨rfl, rfl, rfl, rfl, rfl, rfl, rfl, rfl, rfl, rfl, rfl, rfl, rfl, rfl⟩

/-- A step that takes a reset event resets the block and takes nothing else from the order (R201). -/
theorem step_reset {s : State} {h : Nat} {rest : List Issued}
    (hp : s.pending = { host := h, event := .reset } :: rest) :
    step s = .next (resetBlock { s with pending := rest }) := step_cons hp

/-- Settles O7: the fields of the block after resetBlock. -/
theorem resetEventClearsTheBlock : Obligations.ResetEventClearsTheBlock := by
  intro s h rest hp
  refine ⟨_, step_reset hp, ?_⟩
  simp

/-- STATUS at reset is that of a command that ended without error, and nothing has been seen yet (R23, R200). -/
theorem reset_statusInv : State.reset.StatusInv := ⟨legalStatus_finish false, nofun⟩

/-- TOUT is unwritten at reset (R200). -/
theorem reset_textInv : State.reset.TextInv := nofun

/-- No event is yet to come at reset (log 1). -/
theorem reset_hostsInv : State.reset.HostsInv := nofun

/-- Settles O56: with O54 and O55, the base case of the invariants of every run from reset. -/
theorem resetMeetsInvariants : Obligations.ResetMeetsInvariants := ⟨reset_statusInv, reset_textInv, reset_hostsInv⟩

end Sys2Proof.Machine
end
